-- ==== Sys2Proof/Word.lean ====
section
/-! DEFINITION. The word types of the NSL frame codec: bytes, wide integers, and the 32-bit cursor and counter words
(00_scope R6, R10, R11). All arithmetic is unsigned. -/

namespace Sys2Proof

/-- A byte: 8 bits, bit 7 the most significant (00_scope R10). -/
abbrev Byte := BitVec 8

/-- A wide integer: 16 bits, unsigned (30_encoding R79). -/
abbrev Wide := BitVec 16

/-- A cursor or counter word: `CURSOR_W` and `COUNT_W` are 32 bits (00_scope R6). -/
abbrev Count := BitVec 32

/-- The 4-bit kind field of a record operand, `KIND_W` (00_scope R6, R13). -/
abbrev Kind := BitVec 4

end Sys2Proof
end

