-- ==== Sys2Proof/Config.lean ====
section
/-! DEFINITION. What an implementation fixes: the ROM arguments of the 19 unassigned opcode bytes (30_encoding R84,
decision D21) and the free values the spec leaves open. The free values are opaque: no proof can see them. -/

namespace Sys2Proof

/-- The set `U` of 30_encoding R84: the 19 opcode bytes of `OPSET` whose variant and shape the source does not give,
each named by its byte (`a2` is 0xA2). -/
inductive UOp
  | a2 | a3 | a4 | a5
  | b0 | b1 | b2 | b3 | b4 | b5 | b6
  | c2
  | d0 | d1 | d2 | d3 | d4 | d5 | d6
deriving DecidableEq, Repr, Inhabited

/-- The ROM arguments (30_encoding R84; 70_reset_and_hazards R282: configuration, fixed before the first step, never
changed, read by both units). -/
structure Rom where
  /-- `OPC_JUMP`, the one byte of shape `W` (R84 constraint 1). -/
  opcJump : UOp
  /-- The byte of the clear-track variant, shape `Z` (R84 constraint 3, 43_nsl_instructions R220). -/
  opcClear : UOp
  /-- The bytes whose `SHAPE` argument is `T`; every other byte of `U` but `OPC_JUMP` has shape `Z` (R84 constraint 2). -/
  twoOps : List UOp
deriving DecidableEq, Repr, Inhabited

/-- 30_encoding R84 and 43_nsl_instructions R220: clear-track is a byte of `U` other than `OPC_JUMP`. Constraints 1 and
2 hold of every `Rom` by its type; constraint 4 states no count (log 22). -/
abbrev Rom.Admissible (r : Rom) : Prop := r.opcClear ≠ r.opcJump

/-- An arbitrary pick of ROM arguments made admissible: only where the two opcodes coincide is the clear-track byte
moved to another one. It is the identity on every admissible argument, so it leaves no admissible ROM out. -/
def Rom.normalised (r : Rom) : Rom :=
  if r.opcClear = r.opcJump then
    { r with opcClear := if r.opcJump = .a2 then .a3 else .a2 }
  else r

/-- FREE VALUE (log 1): the ROM arguments of the implementation; OPEN in 00_scope R6 and decision D21. -/
opaque Config.romArgs : Rom

/-- The ROM of `State.reset`: the open arguments, admissible by construction. -/
def Config.rom : Rom := Config.romArgs.normalised

/-- FREE VALUE (log 12): `CEIL` of a kind above 0xA, which 40_operand_datapath R114 says is not defined and the block
never asks for. -/
opaque Config.ceilAbove : Kind → Byte

end Sys2Proof
end

