-- ==== Sys2Proof/Syntax.lean ====
section
/-! DEFINITION. The data types of 00_scope R13 and the syntax of instructions: ONE constructor of `Instr` per row of
spec/opcode_table.json (30_encoding R72, R94; 43_nsl_instructions R210 to R239). -/

namespace Sys2Proof

/-- `Src ::= NUM | BUF` (00_scope R13), the scalar byte's bit 7. -/
inductive Src
  | num | buf
deriving DecidableEq, Repr, Inhabited

/-- `Scalar` (00_scope R13): source tag and 8-bit magnitude; `Number(n)` or `BufferIndex(n)`. -/
structure Scalar where
  src : Src
  mag : Byte
deriving DecidableEq, Repr, Inhabited

/-- `Operand` of a record (00_scope R13): a 4-bit kind field and a scalar. -/
structure Operand where
  kind : Kind
  sc : Scalar
deriving DecidableEq, Repr, Inhabited

/-- `ZERO_OPERAND` (00_scope R14): `Constant(Number(0))`. -/
def zeroOperand : Operand := { kind := 0x0, sc := { src := .num, mag := 0x00 } }

/-- `Record` (10_state R33), the tagged-union instruction at the record ports. -/
structure Record where
  op : Byte
  a : Operand
  b : Operand
  w : Wide
deriving DecidableEq, Repr, Inhabited

/-- The four frame shapes of 30_encoding R72. -/
inductive Shape
  | z | o | w | t
deriving DecidableEq, Repr, Inhabited

/-- `Status` (00_scope R13, 10_state R27, 60_exceptions R250). -/
inductive Status
  | ok | errHeader | errTruncated | errRecord
deriving DecidableEq, Repr, Inhabited

/-- An operand of an instruction as its frame or record carries it: the whole kind byte (30_encoding R77), the source
tag and the magnitude (R78; the notation of R94 admits 0 to 255, a frame 0 to 127). -/
structure Field where
  kind : Byte
  src : Src
  mag : Byte
deriving DecidableEq, Repr, Inhabited

/-- The forms of an unassigned opcode byte (43_nsl_instructions R221 to R239): shape `Z`, or shape `T` with its two
operands. Their third form, shape `W`, is the variant the notation of 30_encoding R94 names `Jump` (log 2). -/
inductive OpenForm
  | zero
  | two (a b : Field)
deriving DecidableEq, Repr, Inhabited

/-- What follows the opcode, by shape (30_encoding R72). -/
inductive Body
  | z
  | o (a : Field)
  | w (v : Wide)
  | t (a b : Field)
deriving DecidableEq, Repr, Inhabited

/-- The NSL instructions, one constructor per row of spec/opcode_table.json. -/
inductive Instr
  /-- `Set` (43_nsl_instructions R214), 0xA1, shape `T`. -/
  | set (a b : Field)
  /-- `LoopSet` (R215), 0xC0, shape `O`. -/
  | loopSet (a : Field)
  /-- `LoopEnd` (R216), 0xC1, shape `Z`. -/
  | loopEnd
  /-- `End` (R217), 0xFF, shape `Z`. -/
  | endOp
  /-- `Placeholder` (R218), shape `Z`: the raw byte in opcode position, 0x00 or any other byte not in `OPSET`. -/
  | placeholder (raw : Byte)
  /-- `Op_A2` (43_nsl_instructions R221): byte 0xA2, form by the ROM argument. -/
  | opA2 (p : OpenForm)
  /-- `Op_A3` (43_nsl_instructions R222): byte 0xA3, form by the ROM argument. -/
  | opA3 (p : OpenForm)
  /-- `Op_A4` (43_nsl_instructions R223): byte 0xA4, form by the ROM argument. -/
  | opA4 (p : OpenForm)
  /-- `Op_A5` (43_nsl_instructions R224): byte 0xA5, form by the ROM argument. -/
  | opA5 (p : OpenForm)
  /-- `Op_B0` (43_nsl_instructions R225): byte 0xB0, form by the ROM argument. -/
  | opB0 (p : OpenForm)
  /-- `Op_B1` (43_nsl_instructions R226): byte 0xB1, form by the ROM argument. -/
  | opB1 (p : OpenForm)
  /-- `Op_B2` (43_nsl_instructions R227): byte 0xB2, form by the ROM argument. -/
  | opB2 (p : OpenForm)
  /-- `Op_B3` (43_nsl_instructions R228): byte 0xB3, form by the ROM argument. -/
  | opB3 (p : OpenForm)
  /-- `Op_B4` (43_nsl_instructions R229): byte 0xB4, form by the ROM argument. -/
  | opB4 (p : OpenForm)
  /-- `Op_B5` (43_nsl_instructions R230): byte 0xB5, form by the ROM argument. -/
  | opB5 (p : OpenForm)
  /-- `Op_B6` (43_nsl_instructions R231): byte 0xB6, form by the ROM argument. -/
  | opB6 (p : OpenForm)
  /-- `Op_C2` (43_nsl_instructions R232): byte 0xC2, form by the ROM argument. -/
  | opC2 (p : OpenForm)
  /-- `Op_D0` (43_nsl_instructions R233): byte 0xD0, form by the ROM argument. -/
  | opD0 (p : OpenForm)
  /-- `Op_D1` (43_nsl_instructions R234): byte 0xD1, form by the ROM argument. -/
  | opD1 (p : OpenForm)
  /-- `Op_D2` (43_nsl_instructions R235): byte 0xD2, form by the ROM argument. -/
  | opD2 (p : OpenForm)
  /-- `Op_D3` (43_nsl_instructions R236): byte 0xD3, form by the ROM argument. -/
  | opD3 (p : OpenForm)
  /-- `Op_D4` (43_nsl_instructions R237): byte 0xD4, form by the ROM argument. -/
  | opD4 (p : OpenForm)
  /-- `Op_D5` (43_nsl_instructions R238): byte 0xD5, form by the ROM argument. -/
  | opD5 (p : OpenForm)
  /-- `Op_D6` (43_nsl_instructions R239): byte 0xD6, form by the ROM argument. -/
  | opD6 (p : OpenForm)
  /-- `Jump` (R219), byte `OPC_JUMP`, shape `W`. -/
  | jump (v : Wide)
  /-- `ClearTrack` (R220), an open byte of `U` other than `OPC_JUMP`, shape `Z`. -/
  | clearTrack
deriving DecidableEq, Repr

/-- The instruction named `Op_XX` for a byte of `U`. -/
def Instr.ofOpen : UOp → OpenForm → Instr
  | .a2, p => .opA2 p
  | .a3, p => .opA3 p
  | .a4, p => .opA4 p
  | .a5, p => .opA5 p
  | .b0, p => .opB0 p
  | .b1, p => .opB1 p
  | .b2, p => .opB2 p
  | .b3, p => .opB3 p
  | .b4, p => .opB4 p
  | .b5, p => .opB5 p
  | .b6, p => .opB6 p
  | .c2, p => .opC2 p
  | .d0, p => .opD0 p
  | .d1, p => .opD1 p
  | .d2, p => .opD2 p
  | .d3, p => .opD3 p
  | .d4, p => .opD4 p
  | .d5, p => .opD5 p
  | .d6, p => .opD6 p

/-- The shape payload of a form of an unassigned opcode. -/
def OpenForm.body : OpenForm → Body
  | .zero => .z
  | .two a b => .t a b

/-- The shape a body is laid out in (30_encoding R72). -/
def Body.shape : Body → Shape
  | .z => .z
  | .o _ => .o
  | .w _ => .w
  | .t _ _ => .t

/-- The operands and wide integer of an instruction, by shape (43_nsl_instructions R214 to R239). -/
def Instr.body : Instr → Body
  | .set a b => .t a b
  | .loopSet a => .o a
  | .loopEnd => .z
  | .endOp => .z
  | .placeholder _ => .z
  | .opA2 p => p.body
  | .opA3 p => p.body
  | .opA4 p => p.body
  | .opA5 p => p.body
  | .opB0 p => p.body
  | .opB1 p => p.body
  | .opB2 p => p.body
  | .opB3 p => p.body
  | .opB4 p => p.body
  | .opB5 p => p.body
  | .opB6 p => p.body
  | .opC2 p => p.body
  | .opD0 p => p.body
  | .opD1 p => p.body
  | .opD2 p => p.body
  | .opD3 p => p.body
  | .opD4 p => p.body
  | .opD5 p => p.body
  | .opD6 p => p.body
  | .jump v => .w v
  | .clearTrack => .z

end Sys2Proof
end

