-- ==== Sys2Proof/Machine/Operands.lean ====
section
/-! DEFINITION. The operand datapath (40_operand_datapath): the scalar codec, the range-clamping unit, the operand
kind/magnitude extractor and the wide-integer codec. Combinational functions, each as its rule's pseudocode. -/

namespace Sys2Proof.Machine

/-- The encoding of a source tag in a scalar byte's bit 7 (00_scope R13, 20_memory R57). -/
def srcBit : Src → BitVec 1
  | .num => 0
  | .buf => 1

/-- `SVD(byte)` (40_operand_datapath R110), the scalar decode, total over all 256 bytes. -/
def svd (b : Byte) : Scalar :=
  if b.getLsbD 7 then { src := .buf, mag := (b.extractLsb' 0 7).setWidth 8 }
  else { src := .num, mag := b }

/-- `SVE(sc)` (R111), the scalar encode: `Number` saturates at 127 without an event; `BufferIndex(n)` with `n ≥ 128`
has no meaning and is refused (`none`), which the block never meets (R124). -/
def sve (sc : Scalar) : Option Byte :=
  match sc.src with
  | .num => some (if sc.mag ≤ 127 then sc.mag else 127)
  | .buf => if sc.mag ≤ 127 then some (sc.mag + 128) else none

/-- `CLAMP(sc, lo, hi)` (R113): `min(max(mag, lo), hi)`, the source tag kept, and whether the magnitude was reduced. -/
def clamp (sc : Scalar) (lo hi : Byte) : Scalar × Bool :=
  let raised := if lo ≤ sc.mag then sc.mag else lo
  let m := if raised ≤ hi then raised else hi
  ({ src := sc.src, mag := m }, decide (m < sc.mag))

/-- The ceiling column of 30_encoding R90 for kinds 0x0 to 0xA (40_operand_datapath R114). The order of kinds 0x3 to
0xA is decision D20's (log 11). -/
def ceilTable : List Byte := [127, 127, 31, 31, 31, 31, 31, 3, 127, 127, 100]

/-- `CEIL(kind)` (R114). Above 0xA the spec defines none and the block never asks: a free value (log 12). -/
def ceil (k : Kind) : Byte := (ceilTable[k.toNat]?).getD (Config.ceilAbove k)

/-- `VALIDATE(op)` (R115): the magnitude clamped to `[0, CEIL(kind)]`, and the clamp event. -/
def validate (o : Operand) : Operand × Bool :=
  let r := clamp o.sc 0 (ceil o.kind)
  ({ kind := o.kind, sc := r.1 }, r.2)

/-- `OPE(op)` (R117), the operand encode: validation first, always. `none` where `SVE` refuses, which R124 rules out
for a kind up to 0xA. -/
def ope (o : Operand) : Option (List Byte × Bool) :=
  let v := validate o
  (sve v.1.sc).map (fun s => ([v.1.kind.setWidth 8, s], v.2))

/-- `OPD(kbyte, sbyte)` (40_operand_datapath R119), the operand decode; the second component is `unk`. -/
def opd (kbyte sbyte : Byte) : Operand × Bool :=
  if kbyte ≤ 0x0A then ({ kind := kbyte.setWidth 4, sc := svd sbyte }, false)
  else (zeroOperand, true)

/-- `WIDE_ENC(v)` (R121), the big-endian split. -/
def wideEnc (v : Wide) : List Byte := [v.extractLsb' 8 8, v.extractLsb' 0 8]

/-- `WIDE_DEC(hi, lo)` (R122): `(hi << 8) | lo`. -/
def wideDec (hi lo : Byte) : Wide := (hi.setWidth 16 <<< 8) ||| lo.setWidth 16

/-- The two payload bytes of an operand as a field of an instruction: the whole kind byte, and the source tag and
magnitude of the scalar byte (30_encoding R77, R78). No bit is dropped. -/
def fieldOf (kbyte sbyte : Byte) : Field :=
  { kind := kbyte, src := (svd sbyte).src, mag := (svd sbyte).mag }

/-- The scalar byte of a field (30_encoding R78): the source tag at bit 7, the magnitude at bits [6:0]. -/
def Field.scalarByte (f : Field) : Byte := srcBit f.src ++ f.mag.extractLsb' 0 7

/-- The operand payload of a field (30_encoding R77): `[kind_byte, scalar_byte]`. -/
def Field.bytes (f : Field) : List Byte := [f.kind, Field.scalarByte f]

/-- The record operand a field stands for at the EU's record port: the low four bits of its kind (00_scope R13), its
source tag and its 8-bit magnitude. -/
def Field.operand (f : Field) : Operand := { kind := f.kind.setWidth 4, sc := { src := f.src, mag := f.mag } }

/-- The field a record operand stands for (00_scope R13). -/
def fieldOfOperand (o : Operand) : Field := { kind := o.kind.setWidth 8, src := o.sc.src, mag := o.sc.mag }

/-- The payload bytes of a body (30_encoding R73 to R76). -/
def bodyBytes : Body → List Byte
  | .z => []
  | .o a => Field.bytes a
  | .w v => wideEnc v
  | .t a b => Field.bytes a ++ Field.bytes b

end Sys2Proof.Machine
end

