-- ==== Sys2Proof/Machine/Rom.lean ====
section
/-! DEFINITION. The opcode set and the dispatch ROM (30_encoding R81 to R88; 41_frame_decoder R140 to R143). -/

namespace Sys2Proof

/-- The opcode byte a member of `U` is named by (30_encoding R84). -/
def UOp.byte : UOp → Byte
  | .a2 => 0xA2
  | .a3 => 0xA3
  | .a4 => 0xA4
  | .a5 => 0xA5
  | .b0 => 0xB0
  | .b1 => 0xB1
  | .b2 => 0xB2
  | .b3 => 0xB3
  | .b4 => 0xB4
  | .b5 => 0xB5
  | .b6 => 0xB6
  | .c2 => 0xC2
  | .d0 => 0xD0
  | .d1 => 0xD1
  | .d2 => 0xD2
  | .d3 => 0xD3
  | .d4 => 0xD4
  | .d5 => 0xD5
  | .d6 => 0xD6

/-- The members of `U`, in order (30_encoding R84). -/
def UOp.all : List UOp :=
  [.a2, .a3, .a4, .a5, .b0, .b1, .b2, .b3, .b4, .b5, .b6, .c2, .d0, .d1, .d2, .d3, .d4, .d5, .d6]

/-- The member of `U` a byte names, if it names one (30_encoding R84, R88). -/
def UOp.ofByte (op : Byte) : Option UOp := UOp.all.find? (fun u => u.byte == op)

/-- `OPSET` (30_encoding R81): the 23 opcode bytes. -/
def opset : List Byte :=
  [0xA1, 0xA2, 0xA3, 0xA4, 0xA5,
   0xB0, 0xB1, 0xB2, 0xB3, 0xB4, 0xB5, 0xB6,
   0xC0, 0xC1, 0xC2,
   0xD0, 0xD1, 0xD2, 0xD3, 0xD4, 0xD5, 0xD6,
   0xFF]

/-- `ROM[op].known` (30_encoding R82): 1 exactly on `OPSET`. -/
def opKnown (op : Byte) : Bool := opset.contains op

/-- `SHAPE` on `U` (30_encoding R84): `W` at `OPC_JUMP`, `Z` at clear-track, else the ROM argument. -/
def Rom.openShape (r : Rom) (u : UOp) : Shape :=
  if u = r.opcJump then .w
  else if u = r.opcClear then .z
  else if r.twoOps.contains u then .t
  else .z

/-- `ROM[op].shape` (30_encoding R82, R83): the four assigned opcodes, the open ones by their arguments, and `Z` for
every byte not in `OPSET` (R85). -/
def Rom.shape (r : Rom) (op : Byte) : Shape :=
  if op = 0xA1 then .t
  else if op = 0xC0 then .o
  else if op = 0xC1 then .z
  else if op = 0xFF then .z
  else match UOp.ofByte op with
    | some u => r.openShape u
    | none => .z

/-- `len` of a shape (30_encoding R82): 1, 3, 3, 5. -/
def Shape.len : Shape → Nat
  | .z => 1
  | .o => 3
  | .w => 3
  | .t => 5

/-- `DISPATCH(op)` (41_frame_decoder R140): one lookup of one byte. -/
def Rom.dispatch (r : Rom) (op : Byte) : Bool × Shape := (opKnown op, r.shape op)

/-- `LEN(op)` (41_frame_decoder R141): the frame length, from the opcode byte alone. -/
def Rom.len (r : Rom) (op : Byte) : Nat := (r.shape op).len

/-- `VAR(op)` (41_frame_decoder R143): the canonical opcode of a raw byte. -/
def varOp (op : Byte) : Byte := if opKnown op then op else 0x00

/-- `SKEL(op)` (41_frame_decoder R142): the variant populated with placeholder zero operands. -/
def skel (op : Byte) : Record := { op := varOp op, a := zeroOperand, b := zeroOperand, w := 0 }

/-- The opcode byte an instruction's frame begins with (spec/opcode_table.json; 43_nsl_instructions R214 to R239). -/
def Instr.opcode (r : Rom) : Instr → Byte
  | .set _ _ => 0xA1
  | .loopSet _ => 0xC0
  | .loopEnd => 0xC1
  | .endOp => 0xFF
  | .placeholder raw => raw
  | .opA2 _ => 0xA2
  | .opA3 _ => 0xA3
  | .opA4 _ => 0xA4
  | .opA5 _ => 0xA5
  | .opB0 _ => 0xB0
  | .opB1 _ => 0xB1
  | .opB2 _ => 0xB2
  | .opB3 _ => 0xB3
  | .opB4 _ => 0xB4
  | .opB5 _ => 0xB5
  | .opB6 _ => 0xB6
  | .opC2 _ => 0xC2
  | .opD0 _ => 0xD0
  | .opD1 _ => 0xD1
  | .opD2 _ => 0xD2
  | .opD3 _ => 0xD3
  | .opD4 _ => 0xD4
  | .opD5 _ => 0xD5
  | .opD6 _ => 0xD6
  | .jump _ => r.opcJump.byte
  | .clearTrack => r.opcClear.byte

end Sys2Proof
end

