-- ==== Sys2Proof/Machine/State.lean ====
section
/-! DEFINITION. The state of the block: the decoder unit (10_state R23), the encoder unit (R29), the two byte spaces
(20_memory R50), the ROM arguments (70_reset_and_hazards R282), and the host interface's events (10_state R21, R22),
waiting and emitted. Reset values: 10_state R37. -/

namespace Sys2Proof.Machine

/-- A byte space: the bytes that exist, by offset, offsets strictly rising (20_memory R50). An offset not listed does
not exist and reads as nothing (R51). -/
abbrev Memory := List Host.Cell

/-- The canonical form of a byte space: offsets strictly rising. -/
abbrev Memory.wf (m : Memory) : Prop := (m.map Prod.fst).Pairwise (· < ·)

/-- `d.state` (10_state R23); codes 6 and 7 are never reached and have no constructor. -/
inductive DState
  | idle | hdr | opc | pay | done | err
deriving DecidableEq, Repr, Inhabited

/-- `e.state` (10_state R29). -/
inductive EState
  | idle | run | done | err
deriving DecidableEq, Repr, Inhabited

/-- `d.pay` (10_state R23, R26): four payload bytes. -/
structure Pay where
  p0 : Byte
  p1 : Byte
  p2 : Byte
  p3 : Byte
deriving DecidableEq, Repr, Inhabited

/-- The decoder unit's fields (10_state R23). -/
structure DecoderUnit where
  state : DState
  cursor : Count
  hdrIdx : BitVec 2
  frameBase : Count
  curOp : Byte
  curLen : BitVec 3
  pay : Pay
  payIdx : BitVec 3
  version : Byte
  versionValid : Bool
  err : BitVec 2
  reccount : Count
deriving DecidableEq, Repr, Inhabited

/-- The encoder unit's fields (10_state R29). -/
structure EncoderUnit where
  state : EState
  err : BitVec 2
  bytecount : Count
  reccount : Count
  clamped : Bool
  clampcount : Count
deriving DecidableEq, Repr, Inhabited

/-- `Diag(e)` (10_state R40): observation only, read by no rule. -/
inductive Diag
  /-- `UNKNOWN_OPCODE(off, byte)`. -/
  | unknownOpcode (off : Count) (byte : Byte)
  /-- `UNKNOWN_KIND(off, byte)`. -/
  | unknownKind (off : Count) (byte : Byte)
  /-- `CLAMP(kind, from, to)`. -/
  | clamp (kind : Kind) (old new : Byte)
deriving DecidableEq, Repr

/-- The input events the host presents: to the DU (10_state R21), to the EU (R22), and reset (70_reset_and_hazards
R280, log 14). -/
inductive HostEvent
  | startDecode
  | byte (b : Byte)
  | eos
  | startEncode
  | record (r : Record)
  | endScript
  | reset
deriving DecidableEq, Repr

/-- The output events of the DU (10_state R21): `Rec(r)`, `Done(s)`, `Diag(e)`. -/
inductive DuOut
  | record (r : Record)
  | finished (s : Status)
  | diag (e : Diag)
deriving DecidableEq, Repr

/-- The output events of the EU (10_state R22): `Byte(b)`, `Done(s)`, `Diag(e)`. -/
inductive EuOut
  | byte (b : Byte)
  | finished (s : Status)
  | diag (e : Diag)
deriving DecidableEq, Repr

/-- The whole state. -/
structure State where
  /-- The ROM arguments: configuration, the same for both units, never changed (70_reset_and_hazards R282). -/
  rom : Rom
  /-- The decoder unit. -/
  d : DecoderUnit
  /-- The encoder unit. -/
  e : EncoderUnit
  /-- The input stream `S` as received since `StartDecode` (20_memory R50, R51, log 5). -/
  sIn : Memory
  /-- The output stream `O` as written since `StartEncode` (20_memory R50, R52, log 5). -/
  sOut : Memory
  /-- MODEL FIELD (log 3): the events the host has presented and no unit has consumed, oldest first. -/
  input : List HostEvent
  /-- MODEL FIELD (log 4): the DU's output events, oldest first. -/
  dOut : List DuOut
  /-- MODEL FIELD (log 4): the EU's output events, oldest first. -/
  eOut : List EuOut
deriving DecidableEq, Repr

/-- The machine never stops with a fault (60_exceptions R250, R257: an error is a status and a next state; log 25), so
there is no fault to name. -/
inductive Fault
deriving DecidableEq, Repr

/-- Why the model gives an event no meaning. Each is SAFE: the model stops where the spec gives nothing to prove. -/
inductive Refusal
  /-- Raised by `exec`'s arm of an instruction that has no meaning yet (none is left). Safe. -/
  | notModelled (mnemonic : String)
  /-- Raised by the event handlers: the host contract does not admit the event in the unit's state
  (70_reset_and_hazards R286). Safe. -/
  | eventNotAdmitted
  /-- Raised on a byte past `MAX_STREAM_LEN`, a drained one too (70_reset_and_hazards R287, log 8). Safe. -/
  | streamTooLong
  /-- Raised on a record whose bytes would take the output past `MAX_STREAM_LEN` (R287). Safe. -/
  | outputTooLong
  /-- Raised where `SVE` is given `BufferIndex(n)`, `n ≥ 128` (40_operand_datapath R111, 60_exceptions R255);
  unreachable in the block (R124). Safe. -/
  | bufIndexRange
  /-- Raised by a meaning run in a state where no unit is receiving the last byte or the record of an instruction; the
  step never does so (log 6). Safe. -/
  | notDelivered
deriving DecidableEq, Repr

/-- The DU after reset (10_state R37). -/
def DecoderUnit.afterReset : DecoderUnit :=
  { state := .idle, cursor := 0, hdrIdx := 0, frameBase := 0, curOp := 0x00, curLen := 1,
    pay := { p0 := 0x00, p1 := 0x00, p2 := 0x00, p3 := 0x00 }, payIdx := 0, version := 0x00, versionValid := false,
    err := 0, reccount := 0 }

/-- The EU after reset (10_state R37). -/
def EncoderUnit.afterReset : EncoderUnit :=
  { state := .idle, err := 0, bytecount := 0, reccount := 0, clamped := false, clampcount := 0 }

/-- The machine after reset under given ROM arguments, with no event presented. -/
def State.resetWith (r : Rom) : State :=
  { rom := r, d := .afterReset, e := .afterReset, sIn := [], sOut := [], input := [], dOut := [], eOut := [] }

/-- The machine right after reset (70_reset_and_hazards R280, R281); the ROM arguments are the open ones (log 1). -/
def State.reset : State := .resetWith Config.rom

end Sys2Proof.Machine
end

