-- ==== Sys2Proof/Machine/Ops.lean ====
section
/-! DEFINITION. The named operations over the byte spaces, the units and their events: reading and writing a byte
space, consuming an event, latching a stream byte, emitting, raising an error and leaving the error state. -/

namespace Sys2Proof.Machine

/-! ### Byte spaces (20_memory R50 to R52) -/

/-- The byte at an offset; none where the offset does not exist (20_memory R51). -/
def Memory.read : Memory → Nat → Option Byte
  | [], _ => none
  | (k, b) :: rest, a => if k = a then some b else Memory.read rest a

/-- One byte written at an offset, the canonical form kept. -/
def Memory.write : Memory → Nat → Byte → Memory
  | [], a, b => [(a, b)]
  | (k, c) :: rest, a, b =>
    if a < k then (a, b) :: (k, c) :: rest
    else if a = k then (a, b) :: rest
    else (k, c) :: Memory.write rest a b

/-- Bytes written at consecutive offsets (20_memory R52). -/
def Memory.writes : Memory → Nat → List Byte → Memory
  | m, _, [] => m
  | m, a, b :: bs => Memory.writes (Memory.write m a b) (a + 1) bs

/-- `In(i)` (00_scope R12, 20_memory R51): the byte of `S` at offset `i`, if it has been received. -/
def State.inByte (s : State) (i : Nat) : Option Byte := Memory.read s.sIn i

/-- The byte of `O` at offset `i`, if it has been written (20_memory R50). -/
def State.outByte (s : State) (i : Nat) : Option Byte := Memory.read s.sOut i

/-! ### Constants and codes -/

/-- `TAG` (41_frame_decoder, section 3; 20_memory R54): `N`, `S`, `L`. -/
def tag : List Byte := [0x4E, 0x53, 0x4C]

/-- The version byte the EU writes (00_scope R6, 30_encoding R71). -/
def versionByte : Byte := 0x01

/-- The header the EU emits (42_frame_encoder R181, 30_encoding R70). -/
def header : List Byte := tag ++ [versionByte]

/-- `MAX_STREAM_LEN` (00_scope R6): `2^32 - 1`. -/
def maxStreamLen : Nat := 4294967295

/-- The number of a status (10_state R27). -/
def statusCode : Status → BitVec 2
  | .ok => 0
  | .errHeader => 1
  | .errTruncated => 2
  | .errRecord => 3

/-! ### Consuming and emitting events (00_scope R8, R12) -/

/-- The event at the head of the input is consumed. -/
def consume (s : State) : State := { s with input := s.input.tail }

/-- The DU emits events, in order. -/
def emitD (evs : List DuOut) (s : State) : State := { s with dOut := s.dOut ++ evs }

/-- The EU emits events that are not bytes, in order. -/
def emitE (evs : List EuOut) (s : State) : State := { s with eOut := s.eOut ++ evs }

/-- The EU emits bytes: each is written at the next offset of `O` and counted (20_memory R52, 42_frame_encoder R182). -/
def emitBytes (bs : List Byte) (s : State) : State :=
  { s with
    sOut := Memory.writes s.sOut s.e.bytecount.toNat bs
    eOut := s.eOut ++ bs.map .byte
    e := { s.e with bytecount := s.e.bytecount + BitVec.ofNat 32 bs.length } }

/-! ### Error entry and the exits from the error states (60_exceptions R257, R258) -/

/-- `raise Error(code)` in the DU (41_frame_decoder R154): `err`, `state` and `Done(code)`, nothing else. -/
def raiseD (code : Status) (s : State) : State :=
  emitD [.finished code] { s with d := { s.d with err := statusCode code, state := .err } }

/-- `raise Error(code)` in the EU (42_frame_encoder R186). -/
def raiseE (code : Status) (s : State) : State :=
  emitE [.finished code] { s with e := { s.e with err := statusCode code, state := .err } }

/-- The effect of `StartDecode` (41_frame_decoder R146; 10_state R37, third column): an exit from `D_ERR`. A new stream
begins, of which no byte has been received. -/
def startDecoder (s : State) : State :=
  { s with d := { DecoderUnit.afterReset with state := .hdr }, sIn := [] }

/-- The effect of `StartEncode` (42_frame_encoder R181; 10_state R37, third column): an exit from `E_ERR`. A new output
stream begins with the header. -/
def startEncoder (s : State) : State :=
  emitBytes header { s with e := { EncoderUnit.afterReset with state := .run }, sOut := [] }

/-- Reset (70_reset_and_hazards R280): every field of both units at its reset value, no event emitted, the ROM not
touched (10_state R36). The events not yet consumed and the events already emitted are the host's (log 14). -/
def resetBlock (s : State) : State :=
  { s with d := .afterReset, e := .afterReset, sIn := [], sOut := [] }

/-! ### Collecting a frame (41_frame_decoder R148, R150) -/

/-- `d.pay[i] <- b`; an index above 3, which no run reaches, names no byte of the buffer (log 15). -/
def Pay.set (p : Pay) (i : BitVec 3) (b : Byte) : Pay :=
  if i = 0 then { p with p0 := b }
  else if i = 1 then { p with p1 := b }
  else if i = 2 then { p with p2 := b }
  else if i = 3 then { p with p3 := b }
  else p

/-- The payload buffer as a list, `d.pay[0]` first. -/
def Pay.toList (p : Pay) : List Byte := [p.p0, p.p1, p.p2, p.p3]

/-- How many bytes of `S` have been received since `StartDecode` (10_state R21, 20_memory R51). -/
def received (s : State) : Nat := s.sIn.length

/-- A byte is drained in `D_ERR` (41_frame_decoder R151): no field of the DU changes, and the byte, like every `Byte`
event since `StartDecode`, is the next byte of `S` (20_memory R51). -/
def drainByte (b : Byte) (s : State) : State :=
  { consume s with sIn := Memory.write s.sIn (received s) b }

/-- A byte of the stream is taken: the event is consumed, and the byte is `In(d.cursor)` (20_memory R51). -/
def takeByte (b : Byte) (s : State) : State :=
  { consume s with sIn := Memory.write s.sIn s.d.cursor.toNat b }

/-- Whether the byte `b` is the last of its frame: in `D_OPC` an opcode byte of a one-byte frame (R148), in `D_PAY` the
byte that brings `d.pay_idx` to `d.cur_len - 1` (R150). -/
def frameCompletes (s : State) (b : Byte) : Bool :=
  match s.d.state with
  | .opc => s.rom.len b = 1
  | .pay => s.d.payIdx + 1 = s.d.curLen - 1
  | .idle => false
  | .hdr => false
  | .done => false
  | .err => false

/-- The opcode byte of a new frame is latched (R148): the length is fixed by the opcode alone (10_state R25). -/
def latchOpcode (r : Rom) (b : Byte) (d : DecoderUnit) : DecoderUnit :=
  { d with
    frameBase := d.cursor
    curOp := b
    curLen := BitVec.ofNat 3 (r.len b)
    payIdx := 0
    cursor := d.cursor + 1 }

/-- A payload byte is latched (R150). -/
def latchPayload (b : Byte) (d : DecoderUnit) : DecoderUnit :=
  { d with
    pay := Pay.set d.pay d.payIdx b
    payIdx := d.payIdx + 1
    cursor := d.cursor + 1 }

/-- The DU after latching a frame's byte: an opcode byte in `D_OPC`, a payload byte in `D_PAY`. -/
def latchByte (r : Rom) (b : Byte) (d : DecoderUnit) : DecoderUnit :=
  match d.state with
  | .opc => latchOpcode r b d
  | .pay => latchPayload b d
  | .idle => d
  | .hdr => d
  | .done => d
  | .err => d

/-- A byte of a frame is taken and latched; the DU is then in `D_OPC` if the frame is complete, else in `D_PAY`
(R148, R150). -/
def collectByte (b : Byte) (s : State) : State :=
  { takeByte b s with
    d := { latchByte s.rom b s.d with state := if frameCompletes s b then .opc else .pay } }

/-- Whether no further byte may be taken: the stream would be longer than `MAX_STREAM_LEN` (70_reset_and_hazards
R287, log 8). -/
def streamFull (s : State) : Bool := s.d.cursor.toNat = maxStreamLen

/-- Whether no further byte may be drained: the failed stream, whose cursor stands still, would be longer than
`MAX_STREAM_LEN` (70_reset_and_hazards R287, log 8). -/
def drainFull (s : State) : Bool := maxStreamLen ≤ received s

/-- `EMIT((r, diags))` (41_frame_decoder R152): the record, its count, then the diagnostics. -/
def emitRecord (r : Record) (diags : List Diag) (s : State) : State :=
  emitD (.record r :: diags.map .diag) { s with d := { s.d with reccount := s.d.reccount + 1 } }

end Sys2Proof.Machine
end

