-- ==== Sys2Proof/Machine/Flags.lean ====
section
/-! DEFINITION. The flags and observation words: the clamp unit's flag, counter and event (40_operand_datapath R118),
the version capture (41_frame_decoder R147), and the read-only words `DSTATUS`, `DCURSOR`, `DRECCOUNT`, `ESTATUS`,
`EBYTECOUNT`, `ERECCOUNT`, `ECLAMPCOUNT` (10_state R28, R30). -/

namespace Sys2Proof.Machine

/-- The clamp event of one encoded operand, if validation reduces its magnitude (40_operand_datapath R118). -/
def clampDiags (o : Operand) : List Diag :=
  if (validate o).2 then [.clamp o.kind o.sc.mag (validate o).1.sc.mag] else []

/-- The side effects of one clamp event (R118): `e.clamped`, `e.clampcount` and the diagnostic. -/
def noteClamp (s : State) (g : Diag) : State :=
  emitE [.diag g] { s with e := { s.e with clamped := true, clampcount := s.e.clampcount + 1 } }

/-- The side effects of the clamp events of a record, in order (42_frame_encoder R182). -/
def noteClamps (gs : List Diag) (s : State) : State := gs.foldl noteClamp s

/-- The version byte is captured (41_frame_decoder R147, 10_state R32): any value, and not acted on. -/
def captureVersion (b : Byte) (d : DecoderUnit) : DecoderUnit :=
  { d with version := b, versionValid := true, cursor := 4, state := .opc }

/-- The code of `d.state` (10_state R23). -/
def dStateCode : DState → BitVec 3
  | .idle => 0
  | .hdr => 1
  | .opc => 2
  | .pay => 3
  | .done => 4
  | .err => 5

/-- The code of `e.state` (10_state R29). -/
def eStateCode : EState → BitVec 2
  | .idle => 0
  | .run => 1
  | .done => 2
  | .err => 3

/-- `DSTATUS` (10_state R28): state [2:0], err [4:3], version_valid [5], version [15:8], the rest 0. -/
def dstatus (d : DecoderUnit) : BitVec 32 :=
  (0 : BitVec 16) ++ (d.version ++ ((0 : BitVec 2) ++ (BitVec.ofBool d.versionValid ++ (d.err ++ dStateCode d.state))))

/-- `DCURSOR` (10_state R28). -/
def dcursor (d : DecoderUnit) : BitVec 32 := d.cursor

/-- `DRECCOUNT` (10_state R28). -/
def dreccount (d : DecoderUnit) : BitVec 32 := d.reccount

/-- `ESTATUS` (10_state R30): state [1:0], err [3:2], clamped [4], the rest 0. -/
def estatus (e : EncoderUnit) : BitVec 32 :=
  (0 : BitVec 27) ++ (BitVec.ofBool e.clamped ++ (e.err ++ eStateCode e.state))

/-- `EBYTECOUNT` (10_state R30). -/
def ebytecount (e : EncoderUnit) : BitVec 32 := e.bytecount

/-- `ERECCOUNT` (10_state R30). -/
def ereccount (e : EncoderUnit) : BitVec 32 := e.reccount

/-- `ECLAMPCOUNT` (10_state R30). -/
def eclampcount (e : EncoderUnit) : BitVec 32 := e.clampcount

end Sys2Proof.Machine
end

