-- ==== Sys2Proof/Machine/Recon.lean ====
section
/-! DEFINITION. Tagged-union reconstruction (41_frame_decoder R144): as the rule writes it over payload bytes
(`recon`), and over the operands of a decoded instruction (`reconBody`, `reconDiags`), which the meanings use. -/

namespace Sys2Proof.Machine

/-- `[UNKNOWN_OPCODE(fb, op)` if the byte is not known and not 0x00`]` (41_frame_decoder R144, 10_state R40). -/
def opcodeDiags (fb : Count) (op : Byte) : List Diag :=
  if opKnown op then [] else if op = 0x00 then [] else [.unknownOpcode fb op]

/-- `[UNKNOWN_KIND(off, kbyte)` if the kind byte is unknown`]` (41_frame_decoder R144, 10_state R40). -/
def kindDiags (off : Count) (kbyte : Byte) (unk : Bool) : List Diag :=
  if unk then [.unknownKind off kbyte] else []

/-- `RECON(op, pay)` (41_frame_decoder R144), with `fb` the frame's offset. -/
def recon (r : Rom) (fb : Count) (op : Byte) (pay : List Byte) : Record × List Diag :=
  let byte := fun k => pay.getD k 0
  match r.shape op with
  | .z => (skel op, opcodeDiags fb op)
  | .o =>
    let a := opd (byte 0) (byte 1)
    ({ skel op with a := a.1 }, opcodeDiags fb op ++ kindDiags (fb + 1) (byte 0) a.2)
  | .w => ({ skel op with w := wideDec (byte 0) (byte 1) }, opcodeDiags fb op)
  | .t =>
    let a := opd (byte 0) (byte 1)
    let b := opd (byte 2) (byte 3)
    ({ skel op with a := a.1, b := b.1 },
      opcodeDiags fb op ++ kindDiags (fb + 1) (byte 0) a.2 ++ kindDiags (fb + 3) (byte 2) b.2)

/-- The operand the DU reconstructs from a field (40_operand_datapath R119). -/
def reconField (f : Field) : Operand := (opd f.kind (Field.scalarByte f)).1

/-- Whether a field's kind byte is unknown (40_operand_datapath R119). -/
def fieldUnknown (f : Field) : Bool := (opd f.kind (Field.scalarByte f)).2

/-- The record the DU reconstructs from an instruction with opcode byte `op` (43_nsl_instructions R210 to R213): the
skeleton, with the fields its shape uses filled in. -/
def reconBody (op : Byte) : Body → Record
  | .z => skel op
  | .o a => { skel op with a := reconField a }
  | .w v => { skel op with w := v }
  | .t a b => { skel op with a := reconField a, b := reconField b }

/-- The diagnostics of the reconstruction (41_frame_decoder R144): the opcode's, then operand a's, then b's. -/
def reconDiags (fb : Count) (op : Byte) : Body → List Diag
  | .z => opcodeDiags fb op
  | .o a => opcodeDiags fb op ++ kindDiags (fb + 1) a.kind (fieldUnknown a)
  | .w _ => opcodeDiags fb op
  | .t a b =>
    opcodeDiags fb op ++ kindDiags (fb + 1) a.kind (fieldUnknown a) ++ kindDiags (fb + 3) b.kind (fieldUnknown b)

end Sys2Proof.Machine
end

