-- ==== Sys2Proof/Machine/RecordEncode.lean ====
section
/-! DEFINITION. Record encode (42_frame_encoder R180, R184): as the rules write it over a record (`encRec`,
`wfRecord`), and over the operands of an instruction (`encBody`, `kindsKnown`, `bodyClamps`), which the meanings use. -/

namespace Sys2Proof.Machine

/-- `ENCREC(r)` (42_frame_encoder R180): the bytes and the clamp events, operand a first. -/
def encRec (r : Rom) (rec : Record) : Option (List Byte × List Bool) :=
  match r.shape rec.op with
  | .z => some ([rec.op], [])
  | .o => (ope rec.a).map (fun pa => (rec.op :: pa.1, [pa.2]))
  | .w => some (rec.op :: wideEnc rec.w, [])
  | .t =>
    match ope rec.a, ope rec.b with
    | some pa, some pb => some (rec.op :: pa.1 ++ pb.1, [pa.2, pb.2])
    | _, _ => none

/-- The check `op_known` of `WF` (42_frame_encoder R184): the canonical opcode of a variant. -/
def opAdmitted (op : Byte) : Bool := opKnown op || op == 0x00

/-- `WF(r)` (42_frame_encoder R184, 10_state R35): `op_known`, and `kind_known` for the operands the shape uses. -/
def wfRecord (r : Rom) (rec : Record) : Bool :=
  opAdmitted rec.op &&
  (match r.shape rec.op with
    | .o => decide (rec.a.kind ≤ 0xA)
    | .t => decide (rec.a.kind ≤ 0xA)
    | .z => true
    | .w => true) &&
  (match r.shape rec.op with
    | .t => decide (rec.b.kind ≤ 0xA)
    | .z => true
    | .o => true
    | .w => true)

/-- The check `kind_known` (42_frame_encoder R184) over an instruction's operands. -/
def kindsKnown : Body → Bool
  | .z => true
  | .o a => decide (a.kind ≤ 0x0A)
  | .w _ => true
  | .t a b => decide (a.kind ≤ 0x0A) && decide (b.kind ≤ 0x0A)

/-- The bytes the EU emits for an instruction with opcode byte `op` (43_nsl_instructions R210 to R213): the canonical
opcode, then each operand validated and encoded, or the wide integer. `none` only where `SVE` refuses, which
40_operand_datapath R124 rules out. -/
def encBody (op : Byte) : Body → Option (List Byte)
  | .z => some [varOp op]
  | .o a => (ope (Field.operand a)).map (fun pa => varOp op :: pa.1)
  | .w v => some (varOp op :: wideEnc v)
  | .t a b =>
    match ope (Field.operand a), ope (Field.operand b) with
    | some pa, some pb => some (varOp op :: pa.1 ++ pb.1)
    | _, _ => none

/-- The clamp events of an instruction's operands, a's first (42_frame_encoder R182). -/
def bodyClamps : Body → List Diag
  | .z => []
  | .o a => clampDiags (Field.operand a)
  | .w _ => []
  | .t a b => clampDiags (Field.operand a) ++ clampDiags (Field.operand b)

end Sys2Proof.Machine
end

