-- ==== Sys2Proof/Machine/Frames.lean ====
section
/-! DEFINITION. What an instruction does in this block (43_nsl_instructions, opening; R210 to R213, R240): in the DU the
last byte of its frame arrives and its record is emitted; in the EU its record arrives and its bytes are emitted. The
event at the head of the input says which unit it is (log 6). -/

namespace Sys2Proof.Machine

/-- The DU side (41_frame_decoder R148, R150, R152): the frame's last byte `last` is latched, the record is emitted,
and the DU is back in `D_OPC`. -/
def finishFrame (op : Byte) (body : Body) (last : Byte) (s : State) : State :=
  let t := collectByte last s
  emitRecord (reconBody op body) (reconDiags t.d.frameBase op body) t

/-- The EU side once a record is accepted (42_frame_encoder R182): its bytes, the counters, then the side effects of
its clamp events. All of the frame's bytes are emitted in the one step of `Rec(r)`: the model's choice beside 20_memory
R59, whose third sentence speaks of consecutive steps (log 27). -/
def sendFrame (bs : List Byte) (clamps : List Diag) (s : State) : State :=
  let t := emitBytes bs (consume s)
  noteClamps clamps { t with e := { t.e with reccount := t.e.reccount + 1 } }

/-- Whether `n` more bytes fit the output (70_reset_and_hazards R287). -/
def outputFits (s : State) (n : Nat) : Bool := s.e.bytecount.toNat + n ≤ maxStreamLen

/-- The EU side (42_frame_encoder R182): an unknown kind raises `ERR_RECORD` and emits no byte; else the frame is
sent, refused only past `MAX_STREAM_LEN`. -/
def encodeFrame (op : Byte) (body : Body) (s : State) : Host.Outcome State Fault Refusal :=
  if kindsKnown body then
    match encBody op body with
    | some bs => if outputFits s bs.length then .next (sendFrame bs (bodyClamps body) s) else .refused .outputTooLong
    | none => .refused .bufIndexRange
  else .next (raiseE .errRecord (consume s))

/-- The DU side, refused only past `MAX_STREAM_LEN` (70_reset_and_hazards R287). -/
def decodeLast (op : Byte) (body : Body) (last : Byte) (s : State) : Host.Outcome State Fault Refusal :=
  if streamFull s then .refused .streamTooLong else .next (finishFrame op body last s)

/-- The meaning of an instruction with opcode byte `op` and operands `body`, in the unit that the event at the head of
the input addresses: the DU when a byte arrives that completes a frame, the EU when a record arrives in `E_RUN`. -/
def runFrame (op : Byte) (body : Body) (s : State) : Host.Outcome State Fault Refusal :=
  match s.input with
  | .byte last :: _ => if frameCompletes s last then decodeLast op body last s else .refused .notDelivered
  | .record _ :: _ => if s.e.state = .run then encodeFrame op body s else .refused .notDelivered
  | _ => .refused .notDelivered

end Sys2Proof.Machine
end

