-- ==== Sys2Proof/Machine/JumpClear.lean ====
section
/-! DEFINITION. The meanings of the two variants the source names without giving their opcode (43_nsl_instructions R219,
R220): their bytes are ROM arguments. -/

namespace Sys2Proof.Machine

/-- `Jump` (43_nsl_instructions R219): byte `OPC_JUMP`, shape `W` (R212). The target is not interpreted. -/
def execJump (v : Wide) (s : State) : Host.Outcome State Fault Refusal := runFrame s.rom.opcJump.byte (.w v) s

/-- `ClearTrack` (R220): its byte is a ROM argument, shape `Z` (R210). -/
def execClearTrack (s : State) : Host.Outcome State Fault Refusal := runFrame s.rom.opcClear.byte .z s

end Sys2Proof.Machine
end

