-- ==== Sys2Proof/Machine/Named.lean ====
section
/-! DEFINITION. The meanings of the variants whose opcode the source gives (43_nsl_instructions R214 to R218): `Set`,
`LoopSet`, `LoopEnd`, `End` and `Placeholder`. -/

namespace Sys2Proof.Machine

/-- `Set` (43_nsl_instructions R214): 0xA1, shape `T` (R213). -/
def execSet (a b : Field) (s : State) : Host.Outcome State Fault Refusal := runFrame 0xA1 (.t a b) s

/-- `LoopSet` (R215): 0xC0, shape `O` (R211). No pairing with a `LoopEnd` is checked (R241). -/
def execLoopSet (a : Field) (s : State) : Host.Outcome State Fault Refusal := runFrame 0xC0 (.o a) s

/-- `LoopEnd` (R216): 0xC1, shape `Z` (R210). -/
def execLoopEnd (s : State) : Host.Outcome State Fault Refusal := runFrame 0xC1 .z s

/-- `End` (R217): 0xFF, shape `Z` (R210). It does not end the parse (41_frame_decoder R149). -/
def execEnd (s : State) : Host.Outcome State Fault Refusal := runFrame 0xFF .z s

/-- `Placeholder` (R218): any byte not in `OPSET` on decode, 0x00 on encode, shape `Z` (R210). -/
def execPlaceholder (raw : Byte) (s : State) : Host.Outcome State Fault Refusal := runFrame raw .z s

end Sys2Proof.Machine
end

