-- ==== Sys2Proof/Machine/OpenOps.lean ====
section
/-! DEFINITION. The meanings of the 19 unassigned opcode bytes (43_nsl_instructions R221 to R239): framing by shape `Z`
(R210) or `T` (R213), as the ROM argument says; the byte at `OPC_JUMP` is `Jump`'s (Machine/JumpClear.lean). -/

namespace Sys2Proof.Machine

/-- `Op_A2` (43_nsl_instructions R221): byte 0xA2, in the form its ROM argument gives. -/
def execOpA2 (p : OpenForm) (s : State) : Host.Outcome State Fault Refusal := runFrame 0xA2 p.body s

/-- `Op_A3` (43_nsl_instructions R222): byte 0xA3, in the form its ROM argument gives. -/
def execOpA3 (p : OpenForm) (s : State) : Host.Outcome State Fault Refusal := runFrame 0xA3 p.body s

/-- `Op_A4` (43_nsl_instructions R223): byte 0xA4, in the form its ROM argument gives. -/
def execOpA4 (p : OpenForm) (s : State) : Host.Outcome State Fault Refusal := runFrame 0xA4 p.body s

/-- `Op_A5` (43_nsl_instructions R224): byte 0xA5, in the form its ROM argument gives. -/
def execOpA5 (p : OpenForm) (s : State) : Host.Outcome State Fault Refusal := runFrame 0xA5 p.body s

/-- `Op_B0` (43_nsl_instructions R225): byte 0xB0, in the form its ROM argument gives. -/
def execOpB0 (p : OpenForm) (s : State) : Host.Outcome State Fault Refusal := runFrame 0xB0 p.body s

/-- `Op_B1` (43_nsl_instructions R226): byte 0xB1, in the form its ROM argument gives. -/
def execOpB1 (p : OpenForm) (s : State) : Host.Outcome State Fault Refusal := runFrame 0xB1 p.body s

/-- `Op_B2` (43_nsl_instructions R227): byte 0xB2, in the form its ROM argument gives. -/
def execOpB2 (p : OpenForm) (s : State) : Host.Outcome State Fault Refusal := runFrame 0xB2 p.body s

/-- `Op_B3` (43_nsl_instructions R228): byte 0xB3, in the form its ROM argument gives. -/
def execOpB3 (p : OpenForm) (s : State) : Host.Outcome State Fault Refusal := runFrame 0xB3 p.body s

/-- `Op_B4` (43_nsl_instructions R229): byte 0xB4, in the form its ROM argument gives. -/
def execOpB4 (p : OpenForm) (s : State) : Host.Outcome State Fault Refusal := runFrame 0xB4 p.body s

/-- `Op_B5` (43_nsl_instructions R230): byte 0xB5, in the form its ROM argument gives. -/
def execOpB5 (p : OpenForm) (s : State) : Host.Outcome State Fault Refusal := runFrame 0xB5 p.body s

/-- `Op_B6` (43_nsl_instructions R231): byte 0xB6, in the form its ROM argument gives. -/
def execOpB6 (p : OpenForm) (s : State) : Host.Outcome State Fault Refusal := runFrame 0xB6 p.body s

/-- `Op_C2` (43_nsl_instructions R232): byte 0xC2, in the form its ROM argument gives. -/
def execOpC2 (p : OpenForm) (s : State) : Host.Outcome State Fault Refusal := runFrame 0xC2 p.body s

/-- `Op_D0` (43_nsl_instructions R233): byte 0xD0, in the form its ROM argument gives. -/
def execOpD0 (p : OpenForm) (s : State) : Host.Outcome State Fault Refusal := runFrame 0xD0 p.body s

/-- `Op_D1` (43_nsl_instructions R234): byte 0xD1, in the form its ROM argument gives. -/
def execOpD1 (p : OpenForm) (s : State) : Host.Outcome State Fault Refusal := runFrame 0xD1 p.body s

/-- `Op_D2` (43_nsl_instructions R235): byte 0xD2, in the form its ROM argument gives. -/
def execOpD2 (p : OpenForm) (s : State) : Host.Outcome State Fault Refusal := runFrame 0xD2 p.body s

/-- `Op_D3` (43_nsl_instructions R236): byte 0xD3, in the form its ROM argument gives. -/
def execOpD3 (p : OpenForm) (s : State) : Host.Outcome State Fault Refusal := runFrame 0xD3 p.body s

/-- `Op_D4` (43_nsl_instructions R237): byte 0xD4, in the form its ROM argument gives. -/
def execOpD4 (p : OpenForm) (s : State) : Host.Outcome State Fault Refusal := runFrame 0xD4 p.body s

/-- `Op_D5` (43_nsl_instructions R238): byte 0xD5, in the form its ROM argument gives. -/
def execOpD5 (p : OpenForm) (s : State) : Host.Outcome State Fault Refusal := runFrame 0xD5 p.body s

/-- `Op_D6` (43_nsl_instructions R239): byte 0xD6, in the form its ROM argument gives. -/
def execOpD6 (p : OpenForm) (s : State) : Host.Outcome State Fault Refusal := runFrame 0xD6 p.body s

end Sys2Proof.Machine
end

