-- ==== Sys2Proof/Machine/Dispatch.lean ====
section
/-! DEFINITION. One arm per instruction. -/

namespace Sys2Proof.Machine

def exec (i : Instr) (s : State) : Host.Outcome State Fault Refusal :=
  match i with
  | .set a b => Sys2Proof.Machine.execSet a b s
  | .loopSet a => Sys2Proof.Machine.execLoopSet a s
  | .loopEnd => Sys2Proof.Machine.execLoopEnd s
  | .endOp => Sys2Proof.Machine.execEnd s
  | .placeholder raw => Sys2Proof.Machine.execPlaceholder raw s
  | .opA2 p => Sys2Proof.Machine.execOpA2 p s
  | .opA3 p => Sys2Proof.Machine.execOpA3 p s
  | .opA4 p => Sys2Proof.Machine.execOpA4 p s
  | .opA5 p => Sys2Proof.Machine.execOpA5 p s
  | .opB0 p => Sys2Proof.Machine.execOpB0 p s
  | .opB1 p => Sys2Proof.Machine.execOpB1 p s
  | .opB2 p => Sys2Proof.Machine.execOpB2 p s
  | .opB3 p => Sys2Proof.Machine.execOpB3 p s
  | .opB4 p => Sys2Proof.Machine.execOpB4 p s
  | .opB5 p => Sys2Proof.Machine.execOpB5 p s
  | .opB6 p => Sys2Proof.Machine.execOpB6 p s
  | .opC2 p => Sys2Proof.Machine.execOpC2 p s
  | .opD0 p => Sys2Proof.Machine.execOpD0 p s
  | .opD1 p => Sys2Proof.Machine.execOpD1 p s
  | .opD2 p => Sys2Proof.Machine.execOpD2 p s
  | .opD3 p => Sys2Proof.Machine.execOpD3 p s
  | .opD4 p => Sys2Proof.Machine.execOpD4 p s
  | .opD5 p => Sys2Proof.Machine.execOpD5 p s
  | .opD6 p => Sys2Proof.Machine.execOpD6 p s
  | .jump v => Sys2Proof.Machine.execJump v s
  | .clearTrack => Sys2Proof.Machine.execClearTrack s

end Sys2Proof.Machine
end

