-- ==== Sys2Proof/Machine/Events.lean ====
section
/-! DEFINITION. The events that complete no instruction: starts, header bytes, bytes inside a frame, ends, drained
events, and reset (41_frame_decoder R146 to R151, 42_frame_encoder R181 to R185, 70_reset_and_hazards R280, R286). -/

namespace Sys2Proof.Machine

/-- `StartDecode` (41_frame_decoder R146). -/
def onStartDecode (s : State) : Host.Outcome State Fault Refusal :=
  match s.d.state with
  | .idle => .next (startDecoder (consume s))
  | .done => .next (startDecoder (consume s))
  | .err => .next (startDecoder (consume s))
  | .hdr => .refused .eventNotAdmitted
  | .opc => .refused .eventNotAdmitted
  | .pay => .refused .eventNotAdmitted

/-- `Byte(b)` in `D_HDR` (41_frame_decoder R147): the tag is checked byte by byte, the version byte captured. A
mismatch leaves the cursor at the offending offset. -/
def onHeaderByte (b : Byte) (s : State) : State :=
  let t := takeByte b s
  if s.d.hdrIdx = 3 then { t with d := captureVersion b s.d }
  else if b = tag.getD s.d.hdrIdx.toNat 0 then
    { t with d := { s.d with hdrIdx := s.d.hdrIdx + 1, cursor := s.d.cursor + 1 } }
  else raiseD .errHeader t

/-- `Byte(b)` where it completes no frame: a header byte (R147), a byte inside a frame (R148, R150), a drained byte
(R151). -/
def onByte (b : Byte) (s : State) : Host.Outcome State Fault Refusal :=
  match s.d.state with
  | .hdr => if streamFull s then .refused .streamTooLong else .next (onHeaderByte b s)
  | .opc => if streamFull s then .refused .streamTooLong else .next (collectByte b s)
  | .pay => if streamFull s then .refused .streamTooLong else .next (collectByte b s)
  | .err => if drainFull s then .refused .streamTooLong else .next (drainByte b s)
  | .idle => .refused .eventNotAdmitted
  | .done => .refused .eventNotAdmitted

/-- The DU's run ends well: `D_DONE` and `Done(OK)` (41_frame_decoder R149). -/
def finishDecode (s : State) : State := emitD [.finished .ok] { s with d := { s.d with state := .done } }

/-- `Eos` (41_frame_decoder R149, R150, R151). -/
def onEos (s : State) : Host.Outcome State Fault Refusal :=
  match s.d.state with
  | .hdr => .next (if s.d.hdrIdx = 3 then finishDecode (consume s) else raiseD .errHeader (consume s))
  | .opc => .next (finishDecode (consume s))
  | .pay => .next (raiseD .errTruncated (consume s))
  | .err => .next (consume s)
  | .idle => .refused .eventNotAdmitted
  | .done => .refused .eventNotAdmitted

/-- `StartEncode` (42_frame_encoder R181). -/
def onStartEncode (s : State) : Host.Outcome State Fault Refusal :=
  match s.e.state with
  | .idle => .next (startEncoder (consume s))
  | .done => .next (startEncoder (consume s))
  | .err => .next (startEncoder (consume s))
  | .run => .refused .eventNotAdmitted

/-- `Rec(r)` that carries no instruction: a record whose opcode is no variant's, in `E_RUN` (42_frame_encoder R182,
R184), or a record outside `E_RUN` (R185). -/
def onRecord (s : State) : Host.Outcome State Fault Refusal :=
  match s.e.state with
  | .run => .next (raiseE .errRecord (consume s))
  | .err => .next (consume s)
  | .idle => .refused .eventNotAdmitted
  | .done => .refused .eventNotAdmitted

/-- `EndScript` (42_frame_encoder R183, R185): no terminator is emitted. -/
def onEndScript (s : State) : Host.Outcome State Fault Refusal :=
  match s.e.state with
  | .run => .next (emitE [.finished .ok] { consume s with e := { s.e with state := .done } })
  | .err => .next (consume s)
  | .idle => .refused .eventNotAdmitted
  | .done => .refused .eventNotAdmitted

/-- The event at the head of the input, where it completes no instruction. With no event presented the block waits
(60_exceptions R261: no wait state other than waiting for the host's next event; log 3). -/
def handleEvent (s : State) : Host.Outcome State Fault Refusal :=
  match s.input with
  | [] => .next s
  | .startDecode :: _ => onStartDecode s
  | .byte b :: _ => onByte b s
  | .eos :: _ => onEos s
  | .startEncode :: _ => onStartEncode s
  | .record _ :: _ => onRecord s
  | .endScript :: _ => onEndScript s
  | .reset :: _ => .next (resetBlock (consume s))

end Sys2Proof.Machine
end

