-- ==== Sys2Proof/WellFormed.lean ====
section
/-! DEFINITION. When an instruction has a frame that decodes to it: three named checks under the ROM arguments. -/

namespace Sys2Proof

/-- A frame carries a magnitude in seven bits (30_encoding R78). -/
def Field.magFits (f : Field) : Bool := decide (f.mag < 128)

/-- Every magnitude of the body fits its frame (30_encoding R78). -/
def Body.magsFit : Body → Bool
  | .z => true
  | .o a => a.magFits
  | .w _ => true
  | .t a b => a.magFits && b.magFits

/-- The raw byte of a placeholder is not an opcode (30_encoding R85). -/
def Instr.rawUnknown : Instr → Bool
  | .placeholder raw => !opKnown raw
  | _ => true

/-- A byte of `U` goes by the name `Op_XX` when it is neither `OPC_JUMP` nor clear-track (30_encoding R94, log 2), and
its form is then the one its ROM argument gives (R84). -/
def UOp.formMatches (r : Rom) (u : UOp) (p : OpenForm) : Bool :=
  u ≠ r.opcJump && u ≠ r.opcClear && (p.body.shape == r.openShape u)

/-- The form of an unassigned opcode is the one the ROM arguments give it; clear-track is not the jump's byte. -/
def Instr.formMatches (r : Rom) : Instr → Bool
  | .opA2 p => UOp.formMatches r .a2 p
  | .opA3 p => UOp.formMatches r .a3 p
  | .opA4 p => UOp.formMatches r .a4 p
  | .opA5 p => UOp.formMatches r .a5 p
  | .opB0 p => UOp.formMatches r .b0 p
  | .opB1 p => UOp.formMatches r .b1 p
  | .opB2 p => UOp.formMatches r .b2 p
  | .opB3 p => UOp.formMatches r .b3 p
  | .opB4 p => UOp.formMatches r .b4 p
  | .opB5 p => UOp.formMatches r .b5 p
  | .opB6 p => UOp.formMatches r .b6 p
  | .opC2 p => UOp.formMatches r .c2 p
  | .opD0 p => UOp.formMatches r .d0 p
  | .opD1 p => UOp.formMatches r .d1 p
  | .opD2 p => UOp.formMatches r .d2 p
  | .opD3 p => UOp.formMatches r .d3 p
  | .opD4 p => UOp.formMatches r .d4 p
  | .opD5 p => UOp.formMatches r .d5 p
  | .opD6 p => UOp.formMatches r .d6 p
  | .clearTrack => decide (r.opcClear ≠ r.opcJump)
  | .set _ _ => true
  | .loopSet _ => true
  | .loopEnd => true
  | .endOp => true
  | .placeholder _ => true
  | .jump _ => true

/-- A well-formed instruction: its operands fit its frame, a placeholder's byte is no opcode, and an open opcode has
the form its ROM argument gives. -/
def Instr.wellFormed (r : Rom) (i : Instr) : Bool :=
  i.body.magsFit && i.rawUnknown && i.formMatches r

end Sys2Proof
end

