-- ==== Sys2Proof/Decode.lean ====
section
/-! DEFINITION. The frame decoder and, after it, the encoder of instructions (30_encoding R72 to R88), under the ROM
arguments; and the host's `decodeTableWord`. -/

namespace Sys2Proof

open Sys2Proof.Machine

/-- Why a byte list holds no complete frame. -/
inductive DecodeRefusal
  /-- There is no opcode byte. -/
  | noOpcode
  /-- The frame claims more bytes than remain (41_frame_decoder R150). -/
  | truncated
deriving DecidableEq, Repr

/-- The instruction of an unassigned opcode byte (30_encoding R84, R94): `Jump` at `OPC_JUMP`, `ClearTrack` at its
byte, else `Op_XX` in the form its ROM argument gives. -/
def openInstr (r : Rom) (u : UOp) (a b : Field) (v : Wide) : Instr :=
  if u = r.opcJump then .jump v
  else if u = r.opcClear then .clearTrack
  else if r.twoOps.contains u then Instr.ofOpen u (.two a b)
  else Instr.ofOpen u .zero

/-- The instruction an opcode byte names (30_encoding R83, R84, R85), with whichever of two operands and a wide integer
its shape uses; a byte not in `OPSET` names the placeholder. -/
def instrOf (r : Rom) (op : Byte) (a b : Field) (v : Wide) : Instr :=
  if op = 0xA1 then .set a b
  else if op = 0xC0 then .loopSet a
  else if op = 0xC1 then .loopEnd
  else if op = 0xFF then .endOp
  else match UOp.ofByte op with
    | some u => openInstr r u a b v
    | none => .placeholder op

/-- The instruction of the frame that begins with `op` and whose payload bytes, as many as its shape has, stand first
among `p0 … p3` (30_encoding R73 to R76). Total: no opcode byte and no payload is illegal (R89). -/
def decodeFrame (r : Rom) (op p0 p1 p2 p3 : Byte) : Instr :=
  instrOf r op (fieldOf p0 p1) (fieldOf p2 p3) (wideDec p0 p1)

/-- The first instruction of a byte list and the bytes after its frame (30_encoding R72, R86): the length comes from
the opcode byte alone. -/
def decode (r : Rom) : List Byte → Except DecodeRefusal (Instr × List Byte)
  | [] => .error .noOpcode
  | op :: rest =>
    if rest.length + 1 < r.len op then .error .truncated
    else .ok (decodeFrame r op (rest.getD 0 0) (rest.getD 1 0) (rest.getD 2 0) (rest.getD 3 0),
      rest.drop (r.len op - 1))

/-- The frame of an instruction (30_encoding R72 to R76): the opcode byte, then the payload by shape. Operands are laid
out as they stand; clamping belongs to the EU (42_frame_encoder R180), not to the format. -/
def encode (r : Rom) (i : Instr) : List Byte := i.opcode r :: bodyBytes i.body

/-- Byte `k` of a word numbered as spec/opcode_table.json numbers it: bit 0 is the least significant bit of the first
byte; bits at or above `nbits` are 0. -/
def tableByte (nbits w k : Nat) : Byte := BitVec.ofNat 8 ((w % 2 ^ nbits) >>> (8 * k))

/-- The five bytes (the longest frame) of a table word, in stream order. -/
def tableBytes (nbits w : Nat) : List Byte :=
  [tableByte nbits w 0, tableByte nbits w 1, tableByte nbits w 2, tableByte nbits w 3, tableByte nbits w 4]

/-- The ROM argument a table word of an `Op_XX` row is read under (log 7): a word that begins with a byte of `U` has a
meaning only under a named ROM (30_encoding R84). Here the byte itself is neither jump nor clear-track, and every other
byte has shape `T`. Words that begin with any other byte do not depend on it. -/
def probeRom (op : Byte) : Rom :=
  { opcJump := if op = 0xD5 ∨ op = 0xD6 then .a2 else .d5
    opcClear := if op = 0xD5 ∨ op = 0xD6 then .a3 else .d6
    twoOps := UOp.all }

/-- The instruction the decoder reads from the word `w` of `nbits` bits, numbered as the table numbers it. -/
def decodeTableWord (nbits w : Nat) : Option Instr :=
  match decode (probeRom (tableByte nbits w 0)) (tableBytes nbits w) with
  | .ok (i, _) => some i
  | .error _ => none

end Sys2Proof
end

