-- ==== Sys2Proof/Machine/Fetch.lean ====
section
/-! DEFINITION. Which instruction, if any, the event at the head of the input completes (41_frame_decoder R148, R150;
42_frame_encoder R182). -/

namespace Sys2Proof.Machine

/-- The bytes of the frame that the byte `last` completes: the opcode byte alone, or the collected opcode, the payload
buffer with `last` in its place, and no more of it than the frame has (41_frame_decoder R148, R150). -/
def frameBytes (s : State) (last : Byte) : List Byte :=
  match s.d.state with
  | .opc => [last]
  | .pay => s.d.curOp :: ((Pay.set s.d.pay s.d.payIdx last).toList.take (s.rom.len s.d.curOp - 1))
  | .idle => []
  | .hdr => []
  | .done => []
  | .err => []

/-- The instruction of a record whose opcode is that of a variant (10_state R33, R35; fields the shape does not use are
ignored, 42_frame_encoder R187); none where `op_known` fails (R184). -/
def instrOfRecord (r : Rom) (rec : Record) : Option Instr :=
  if opKnown rec.op || rec.op == 0x00 then
    some (instrOf r rec.op (fieldOfOperand rec.a) (fieldOfOperand rec.b) rec.w)
  else none

/-- The instruction that the event at the head of the input completes: in the DU when the byte is the last of its
frame, in the EU when a record arrives in `E_RUN`. -/
def fetchInstr (s : State) : Option Instr :=
  match s.input with
  | .byte last :: _ =>
    if frameCompletes s last then
      match decode s.rom (frameBytes s last) with
      | .ok (i, _) => some i
      | .error _ => none
    else none
  | .record rec :: _ => if s.e.state = .run then instrOfRecord s.rom rec else none
  | _ => none

/-- The DU about to read a stream's first opcode byte: the header has been received (41_frame_decoder R146, R147). -/
def headerReceived (s : State) : State :=
  { s with
    d := { DecoderUnit.afterReset with
      state := .opc, cursor := 4, hdrIdx := 3, version := versionByte, versionValid := true }
    sIn := Memory.writes [] 0 header }

/-- A frame delivered up to its last byte, and that byte at the head of the input, before the events already there
(log 7): the very next step completes the frame. -/
def deliverFrame (r : Rom) (frame : List Byte) (s : State) : State :=
  let ready := { headerReceived s with rom := r }
  let t := frame.dropLast.foldl (fun u b => collectByte b { u with input := .byte b :: u.input }) ready
  { t with input := (frame.getLast?.map HostEvent.byte).toList ++ t.input }

/-- The ROM a table word is run under: the state's own, but for a word that begins with a byte of `U` the one
`decodeTableWord` reads it under (log 7). -/
def fetchRom (s : State) (op : Byte) : Rom := if (UOp.ofByte op).isSome then probeRom op else s.rom

end Sys2Proof.Machine
end

