-- ==== Sys2Proof/Machine/Step.lean ====
section
/-! DEFINITION. One step of the block (00_scope R8): one input event is consumed. When it completes an instruction, the
instruction's meaning runs; otherwise the event is handled on its own. -/

namespace Sys2Proof.Machine

def step (s : State) : Host.Outcome State Fault Refusal :=
  match fetchInstr s with
  | some i => exec i s
  | none => handleEvent s

/-- The word `w` of `nbits` bits delivered to the DU as the first frame of a stream, its last byte still to come
(log 7). -/
def State.withFetchWord (s : State) (nbits w : Nat) : State :=
  let r := fetchRom s (tableByte nbits w 0)
  deliverFrame r ((tableBytes nbits w).take (r.len (tableByte nbits w 0))) s

end Sys2Proof.Machine
end

