-- ==== Sys2Proof/Machine/Assembly.lean ====
section
/-! DEFINITION. The assembly language of 30_encoding R94: a record written in the source's constructor form
(`recordText`), and a line of that form read back as a record (`parseRecord`). R95: no labels, directives or macros.
Names of kinds: R90, R91. -/

namespace Sys2Proof.Machine

/-- The names of the 11 operand kinds, in tag order (30_encoding R90, R91). -/
def kindNames : List String :=
  ["Constant", "Random", "StepPitch", "StepRead1", "StepRead2", "StepRead3", "BufferRead", "ParamRead", "ScaleRead",
   "FullScaleRead", "RandomNote"]

/-- The name of a member of `U` in the assembly language (30_encoding R94): `Jump` at `OPC_JUMP`, else `Op_XX`. -/
def openName (r : Rom) (u : UOp) : String :=
  if u = r.opcJump then "Jump"
  else match u with
    | .a2 => "Op_A2" | .a3 => "Op_A3" | .a4 => "Op_A4" | .a5 => "Op_A5"
    | .b0 => "Op_B0" | .b1 => "Op_B1" | .b2 => "Op_B2" | .b3 => "Op_B3" | .b4 => "Op_B4" | .b5 => "Op_B5"
    | .b6 => "Op_B6"
    | .c2 => "Op_C2"
    | .d0 => "Op_D0" | .d1 => "Op_D1" | .d2 => "Op_D2" | .d3 => "Op_D3" | .d4 => "Op_D4" | .d5 => "Op_D5"
    | .d6 => "Op_D6"

/-- The names of the grammar with the opcodes they name (30_encoding R94). -/
def opcodeNames (r : Rom) : List (String × Byte) :=
  [("Set", 0xA1), ("LoopSet", 0xC0), ("LoopEnd", 0xC1), ("End", 0xFF), ("Placeholder", 0x00)] ++
    UOp.all.map (fun u => (openName r u, u.byte))

/-! ### Writing -/

/-- `scalar` of the grammar. -/
def scalarText (sc : Scalar) : String :=
  match sc.src with
  | .num => "Number(" ++ toString sc.mag.toNat ++ ")"
  | .buf => "BufferIndex(" ++ toString sc.mag.toNat ++ ")"

/-- `operand` of the grammar; none where the kind has no name. -/
def operandText (o : Operand) : Option String :=
  (kindNames[o.kind.toNat]?).map (fun name => name ++ "(" ++ scalarText o.sc ++ ")")

/-- `instr` of the grammar; none for a record that is not well formed (10_state R35). -/
def recordText (r : Rom) (rec : Record) : Option String :=
  match (opcodeNames r).find? (fun p => p.2 == rec.op) with
  | none => none
  | some (name, _) =>
    match r.shape rec.op with
    | .z => some name
    | .o => (operandText rec.a).map (fun a => name ++ "(" ++ a ++ ")")
    | .w => some (name ++ "(" ++ toString rec.w.toNat ++ ")")
    | .t =>
      match operandText rec.a, operandText rec.b with
      | some a, some b => some (name ++ "(" ++ a ++ ", " ++ b ++ ")")
      | _, _ => none

/-! ### Reading: each reader answers what it read and the characters left -/

/-- A run of letters, digits and underscores, after spaces. -/
def readWord (cs : List Char) : String × List Char :=
  let trimmed := cs.dropWhile (· == ' ')
  let p := trimmed.span (fun c => c.isAlphanum || c == '_')
  (String.ofList p.1, p.2)

/-- One given character, after spaces. -/
def readChar (c : Char) (cs : List Char) : Option (List Char) :=
  match cs.dropWhile (· == ' ') with
  | d :: rest => if d = c then some rest else none
  | [] => none

/-- The value of a digit below 16. -/
def digitValue (c : Char) : Option Nat :=
  if c.isDigit then some (c.toNat - '0'.toNat)
  else if 'a' ≤ c ∧ c ≤ 'f' then some (c.toNat - 'a'.toNat + 10)
  else if 'A' ≤ c ∧ c ≤ 'F' then some (c.toNat - 'A'.toNat + 10)
  else none

/-- A numeral in a base, all of its characters digits below the base. -/
def numeralValue (base : Nat) : List Char → Nat → Option Nat
  | [], acc => some acc
  | c :: rest, acc =>
    match digitValue c with
    | some v => if v < base then numeralValue base rest (acc * base + v) else none
    | none => none

/-- `n` of the grammar: decimal (30_encoding R94). -/
def readDecimal (cs : List Char) : Option (Nat × List Char) :=
  let p := readWord cs
  match p.1.toList with
  | [] => none
  | ds => (numeralValue 10 ds 0).map (fun n => (n, p.2))

/-- `wide` of the grammar: decimal 0 to 65535, or `0x` and hexadecimal digits. -/
def readWide (cs : List Char) : Option (Wide × List Char) :=
  let p := readWord cs
  let value := match p.1.toList with
    | '0' :: 'x' :: d :: ds => numeralValue 16 (d :: ds) 0
    | d :: ds => numeralValue 10 (d :: ds) 0
    | [] => none
  value.bind (fun n => if n < 65536 then some (BitVec.ofNat 16 n, p.2) else none)

/-- `scalar` of the grammar: a magnitude is 0 to 255. -/
def readScalar (cs : List Char) : Option (Scalar × List Char) := do
  let p := readWord cs
  let src ← if p.1 = "Number" then some Src.num else if p.1 = "BufferIndex" then some Src.buf else none
  let opened ← readChar '(' p.2
  let n ← readDecimal opened
  let rest ← readChar ')' n.2
  if n.1 < 256 then some ({ src := src, mag := BitVec.ofNat 8 n.1 }, rest) else none

/-- `operand` of the grammar. -/
def readOperand (cs : List Char) : Option (Operand × List Char) := do
  let p := readWord cs
  let k ← kindNames.findIdx? (· == p.1)
  let opened ← readChar '(' p.2
  let sc ← readScalar opened
  let rest ← readChar ')' sc.2
  some ({ kind := BitVec.ofNat 4 k, sc := sc.1 }, rest)

/-- Nothing but spaces is left. -/
def atEnd (cs : List Char) : Bool := (cs.dropWhile (· == ' ')).isEmpty

/-- `instr` of the grammar: a line of assembly as the record it stands for (30_encoding R94), the fields its shape does
not use zero. -/
def parseRecord (r : Rom) (line : String) : Option Record := do
  let p := readWord line.toList
  let named ← (opcodeNames r).find? (fun q => q.1 == p.1)
  let base : Record := { op := named.2, a := zeroOperand, b := zeroOperand, w := 0 }
  match r.shape named.2 with
  | .z => if atEnd p.2 then some base else none
  | .o =>
    let opened ← readChar '(' p.2
    let a ← readOperand opened
    let rest ← readChar ')' a.2
    if atEnd rest then some { base with a := a.1 } else none
  | .w =>
    let opened ← readChar '(' p.2
    let v ← readWide opened
    let rest ← readChar ')' v.2
    if atEnd rest then some { base with w := v.1 } else none
  | .t =>
    let opened ← readChar '(' p.2
    let a ← readOperand opened
    let mid ← readChar ',' a.2
    let b ← readOperand mid
    let rest ← readChar ')' b.2
    if atEnd rest then some { base with a := a.1, b := b.1 } else none

end Sys2Proof.Machine
end

