-- ==== Sys2Proof/Machine/Reference.lean ====
section
/-! DEFINITION. The whole-stream reference functions: `DECODE` (41_frame_decoder R155), valid streams (R160), `ENCODE`
(42_frame_encoder R188), `NORM` (R191), and the result of a run (70_reset_and_hazards R292). -/

namespace Sys2Proof.Machine

/-- The frames of a byte list, back to back from its first byte (41_frame_decoder R155): the records of the complete
ones, and whether the list ends inside a frame. Every frame has a byte, so as many rounds as bytes suffice. -/
def parseFrames (r : Rom) : Nat → List Byte → List Record × Bool
  | _, [] => ([], false)
  | 0, _ :: _ => ([], true)
  | n + 1, op :: rest =>
    if rest.length + 1 < r.len op then ([], true)
    else
      let later := parseFrames r n (rest.drop (r.len op - 1))
      ((recon r 0 op (rest.take (r.len op - 1))).1 :: later.1, later.2)

/-- The records of the complete frames of a stream, which begin at offset 4 (20_memory R61). -/
def completeRecords (r : Rom) (bytes : List Byte) : List Record := (parseFrames r bytes.length (bytes.drop 4)).1

/-- Whether a stream begins with the literal tag (41_frame_decoder R155). -/
def tagged (bytes : List Byte) : Bool := decide (3 ≤ bytes.length) && (bytes.take 3 == tag)

/-- `DECODE(S)` (41_frame_decoder R155): a failing stream has no records. -/
def decodeStream (r : Rom) (bytes : List Byte) : Status × List Record :=
  if tagged bytes then
    if (parseFrames r bytes.length (bytes.drop 4)).2 then (.errTruncated, []) else (.ok, completeRecords r bytes)
  else (.errHeader, [])

/-- The offset of the first byte that differs from the tag, or the length if the stream ended first
(41_frame_decoder R156, 60_exceptions R251). -/
def firstMismatch : List Byte → List Byte → Nat
  | t :: ts, b :: bs => if b = t then firstMismatch ts bs + 1 else 0
  | _, _ => 0

/-- A kind byte that is a kind, and a scalar byte within its ceiling (41_frame_decoder R160). -/
def operandInRange (kbyte sbyte : Byte) : Bool :=
  decide (kbyte ≤ 0x0A) && decide ((svd sbyte).mag ≤ ceil (kbyte.setWidth 4))

/-- The frame-by-frame conditions of a valid stream (41_frame_decoder R160). -/
def framesInRange (r : Rom) : Nat → List Byte → Bool
  | _, [] => true
  | 0, _ :: _ => false
  | n + 1, op :: rest =>
    opAdmitted op &&
    (match r.shape op with
      | .z => true
      | .o => operandInRange (rest.getD 0 0) (rest.getD 1 0)
      | .w => true
      | .t => operandInRange (rest.getD 0 0) (rest.getD 1 0) && operandInRange (rest.getD 2 0) (rest.getD 3 0)) &&
    framesInRange r n (rest.drop (r.len op - 1))

/-- A valid stream (41_frame_decoder R160). -/
def validStream (r : Rom) (bytes : List Byte) : Bool :=
  decide (4 ≤ bytes.length) && (bytes.take 4 == header) && ((decodeStream r bytes).1 == .ok) &&
    framesInRange r bytes.length (bytes.drop 4)

/-- The bytes of a list of records, none from the first ill-formed one on (42_frame_encoder R188). -/
def encodeRecords (r : Rom) : List Record → Option (List Byte)
  | [] => some []
  | x :: xs =>
    if wfRecord r x then
      match encRec r x, encodeRecords r xs with
      | some p, some later => some (p.1 ++ later)
      | _, _ => none
    else none

/-- `ENCODE(rs)` (42_frame_encoder R188). -/
def encodeScript (r : Rom) (rs : List Record) : Status × List Byte :=
  match encodeRecords r rs with
  | some bytes => (.ok, header ++ bytes)
  | none => (.errRecord, [])

/-- The records before the first ill-formed one (42_frame_encoder R189). -/
def wellFormedPrefix (r : Rom) (rs : List Record) : List Record := rs.takeWhile (wfRecord r)

/-- The number of operand fields of a record that `VALIDATE` reduces (42_frame_encoder R189). -/
def clampsOf (r : Rom) (rec : Record) : Nat :=
  match encRec r rec with
  | some p => p.2.count true
  | none => 0

/-- `NORM(r)` (42_frame_encoder R191). -/
def norm (r : Rom) (rec : Record) : Record :=
  { op := rec.op
    a := match r.shape rec.op with
      | .o => (validate rec.a).1
      | .t => (validate rec.a).1
      | .z => zeroOperand
      | .w => zeroOperand
    b := match r.shape rec.op with
      | .t => (validate rec.b).1
      | .z => zeroOperand
      | .o => zeroOperand
      | .w => zeroOperand
    w := match r.shape rec.op with
      | .w => rec.w
      | .z => 0
      | .o => 0
      | .t => 0 }

/-- The records among the DU's output events. -/
def recordsOf : List DuOut → List Record
  | [] => []
  | .record r :: rest => r :: recordsOf rest
  | .finished _ :: rest => recordsOf rest
  | .diag _ :: rest => recordsOf rest

/-- The final statuses among the DU's output events. -/
def statusesOf : List DuOut → List Status
  | [] => []
  | .finished st :: rest => st :: statusesOf rest
  | .record _ :: rest => statusesOf rest
  | .diag _ :: rest => statusesOf rest

/-- The bytes among the EU's output events. -/
def bytesOf : List EuOut → List Byte
  | [] => []
  | .byte b :: rest => b :: bytesOf rest
  | .finished _ :: rest => bytesOf rest
  | .diag _ :: rest => bytesOf rest

/-- The final statuses among the EU's output events. -/
def euStatusesOf : List EuOut → List Status
  | [] => []
  | .finished st :: rest => st :: euStatusesOf rest
  | .byte _ :: rest => euStatusesOf rest
  | .diag _ :: rest => euStatusesOf rest

/-- The result of a DU run that emitted these events (70_reset_and_hazards R292): its records if it ended in `OK`, and
nothing otherwise (R288: the host discards them). None until `Done`. -/
def decodeResult (events : List DuOut) : Option (Status × List Record) :=
  match statusesOf events with
  | [] => none
  | .ok :: _ => some (.ok, recordsOf events)
  | st :: _ => some (st, [])

/-- The result of an EU run that emitted these events (70_reset_and_hazards R292). -/
def encodeResult (events : List EuOut) : Option (Status × List Byte) :=
  match euStatusesOf events with
  | [] => none
  | .ok :: _ => some (.ok, bytesOf events)
  | st :: _ => some (st, [])

end Sys2Proof.Machine
end

