-- ==== Sys2Proof/Safety.lean ====
section
/-! DEFINITION. What a host that keeps its contract sends (70_reset_and_hazards R283, R286, R287), what a safe run is,
and the facts about the state that every step keeps. -/

namespace Sys2Proof.Machine

/-- The events of one decode (41_frame_decoder R156): the start, every byte once in offset order, one end. -/
def decodeEvents (bytes : List Byte) : List HostEvent := .startDecode :: (bytes.map .byte ++ [.eos])

/-- The events of one encode (42_frame_encoder R189). -/
def encodeEvents (rs : List Record) : List HostEvent := .startEncode :: (rs.map .record ++ [.endScript])

/-- Whether the DU is between runs, where a start is admitted (41_frame_decoder R146). -/
def DState.atRest : DState → Bool
  | .idle => true
  | .done => true
  | .err => true
  | .hdr => false
  | .opc => false
  | .pay => false

/-- Whether the EU is between runs, where a start is admitted (42_frame_encoder R181). -/
def EState.atRest : EState → Bool
  | .idle => true
  | .done => true
  | .err => true
  | .run => false

/-- The admission rules of 70_reset_and_hazards R286: whether an event is admitted in the units' states. -/
def eventAdmitted (s : State) : HostEvent → Bool
  | .startDecode => s.d.state.atRest
  | .byte _ => s.d.state ≠ .idle && s.d.state ≠ .done
  | .eos => s.d.state ≠ .idle && s.d.state ≠ .done
  | .startEncode => s.e.state.atRest
  | .record _ => s.e.state ≠ .idle && s.e.state ≠ .done
  | .endScript => s.e.state ≠ .idle && s.e.state ≠ .done
  | .reset => true

/-- The next event, if there is one, is admitted. -/
def nextAdmitted (s : State) : Bool :=
  match s.input with
  | [] => true
  | ev :: _ => eventAdmitted s ev

/-- A run of `n` steps that no refusal stops. -/
def SafeFor (n : Nat) (s : State) : Prop := ∃ t, Sys2Proof.core.run n s = .next t

/-! ### What every step keeps -/

/-- The fields of the DU agree with one another (10_state R23 to R27). -/
structure DuConsistent (r : Rom) (d : DecoderUnit) : Prop where
  /-- `d.cur_len` is `LEN(d.cur_op)` (R23, R25). -/
  curLen_eq : d.curLen.toNat = r.len d.curOp
  /-- `d.err` is 0 outside `D_ERR` (R23). -/
  err_zero : d.state ≠ .err → d.err = 0
  /-- In `D_ERR`, `d.err` is 1 or 2: the DU never produces `ERR_RECORD` (R27). -/
  err_code : d.state = .err → d.err = 1 ∨ d.err = 2
  /-- While the header is checked, the cursor is the index of the next header byte (R23). -/
  hdr_cursor : d.state = .hdr → d.cursor.toNat = d.hdrIdx.toNat
  /-- The first frame starts at offset 4 (R24). -/
  opc_cursor : d.state = .opc → 4 ≤ d.cursor.toNat
  /-- While a payload is collected, fewer than `LEN - 1` of its bytes have been received (R23, R26). -/
  pay_open : d.state = .pay → d.payIdx.toNat + 1 < d.curLen.toNat
  /-- While a payload is collected, the cursor stands after the opcode byte and the bytes collected (R24). -/
  pay_cursor : d.state = .pay → d.cursor.toNat = d.frameBase.toNat + 1 + d.payIdx.toNat
  /-- While a payload is collected, its frame starts after the header (R24). -/
  pay_base : d.state = .pay → 4 ≤ d.frameBase.toNat
  /-- The version is valid while frames are parsed (R23). -/
  version_known : d.state = .opc ∨ d.state = .pay → d.versionValid = true
  /-- While the header is checked, no version byte has been received (R23). -/
  version_unknown : d.state = .hdr → d.versionValid = false
  /-- Every emitted record has taken a byte, so `d.reccount` has not wrapped (R23, 70_reset_and_hazards R287). -/
  records_bytes : d.reccount.toNat ≤ d.cursor.toNat
  /-- `d.version` is 0 while `d.version_valid` is 0 (R28). -/
  version_zero : d.versionValid = false → d.version = 0

/-- The fields of the EU agree with one another (10_state R29, 70_reset_and_hazards R287: no counter wraps). -/
structure EuConsistent (e : EncoderUnit) : Prop where
  /-- `e.err` is 3 in `E_ERR`, else 0 (R29). -/
  err_code : e.err = if e.state = .err then 3 else 0
  /-- The header has been emitted in every run (42_frame_encoder R181). -/
  run_header : e.state ≠ .idle → 4 ≤ e.bytecount.toNat
  /-- Every encoded record has emitted a byte (42_frame_encoder R180). -/
  records_bytes : e.reccount.toNat ≤ e.bytecount.toNat
  /-- Every clamped operand has emitted two bytes (42_frame_encoder R180). -/
  clamps_bytes : 2 * e.clampcount.toNat ≤ e.bytecount.toNat
  /-- `e.clamped` is 1 once an operand has been clamped (R29). -/
  clamped_iff : e.clamped = true ↔ e.clampcount ≠ 0

/-- The input stream `S` as received since `StartDecode` (20_memory R51): the offset of its `i`-th byte is `i`. While
no error has been raised, `d.cursor` is how many bytes there are; in `D_ERR` the cursor stays, and the drained bytes
count on (41_frame_decoder R151). -/
structure InputContiguous (s : State) : Prop where
  /-- The offsets are consecutive from 0 (R51). -/
  offsets : s.sIn.map Prod.fst = List.range (received s)
  /-- The stream is no longer than `MAX_STREAM_LEN` (20_memory R50, 70_reset_and_hazards R287). -/
  fits : received s ≤ maxStreamLen
  /-- Outside `D_ERR` every byte received has moved the cursor on (10_state R23). -/
  cursor_eq : s.d.state ≠ .err → s.d.cursor.toNat = received s
  /-- In every state the cursor stands within the bytes received (10_state R23). -/
  cursor_le : s.d.cursor.toNat ≤ received s

/-- The offsets of `O` are 0 … `e.bytecount` - 1 (20_memory R50). -/
def OutputContiguous (s : State) : Prop := s.sOut.map Prod.fst = List.range s.e.bytecount.toNat

/-- Everything that holds at reset and that every step keeps. -/
structure Inv (s : State) : Prop where
  /-- Clear-track is not the jump's byte (30_encoding R84, 43_nsl_instructions R220). -/
  rom_admissible : s.rom.Admissible
  du : DuConsistent s.rom s.d
  eu : EuConsistent s.e
  input_contiguous : InputContiguous s
  output_contiguous : OutputContiguous s

/-! ### Whole effects: what a unit does to every field of the state, for the statements -/

/-- A byte arrives that completes a frame, within `MAX_STREAM_LEN` (41_frame_decoder R148, R150). -/
structure LastByte (s : State) (last : Byte) (rest : List HostEvent) : Prop where
  input : s.input = .byte last :: rest
  completes : frameCompletes s last = true
  fits : s.d.cursor.toNat < maxStreamLen

/-- A record arrives in `E_RUN` (42_frame_encoder R182). -/
structure RecordArrives (s : State) (rec : Record) (rest : List HostEvent) : Prop where
  input : s.input = .record rec :: rest
  running : s.e.state = .run

/-- The offset of the frame that the arriving byte belongs to (41_frame_decoder R148). -/
def arrivingBase (s : State) : Count := if s.d.state = .opc then s.d.cursor else s.d.frameBase

/-- The DU has completed a frame with its last byte `last` and emitted `rec` and then `diags`; nothing else of the
state has changed (41_frame_decoder R148, R150, R152). -/
structure DuCompletes (s t : State) (last : Byte) (rest : List HostEvent) (rec : Record) (diags : List Diag) :
    Prop where
  input : t.input = rest
  out : t.dOut = s.dOut ++ .record rec :: diags.map .diag
  state : t.d.state = .opc
  cursor : t.d.cursor = s.d.cursor + 1
  reccount : t.d.reccount = s.d.reccount + 1
  frameBase : t.d.frameBase = arrivingBase s
  opcode_latched : s.d.state = .opc →
    t.d.curOp = last ∧ t.d.curLen = BitVec.ofNat 3 (s.rom.len last) ∧ t.d.payIdx = 0 ∧ t.d.pay = s.d.pay
  payload_latched : s.d.state = .pay →
    t.d.curOp = s.d.curOp ∧ t.d.curLen = s.d.curLen ∧ t.d.payIdx = s.d.payIdx + 1 ∧
      t.d.pay = Pay.set s.d.pay s.d.payIdx last
  unit_kept : t.d.hdrIdx = s.d.hdrIdx ∧ t.d.version = s.d.version ∧ t.d.versionValid = s.d.versionValid ∧
    t.d.err = s.d.err
  received : ∀ a, t.inByte a = if a = s.d.cursor.toNat then some last else s.inByte a
  rom_kept : t.rom = s.rom
  encoder_kept : t.e = s.e ∧ t.eOut = s.eOut
  output_kept : ∀ a, t.outByte a = s.outByte a

/-- The EU has sent the frame `bytes` with the clamp events `clamps`; nothing else of the state has changed
(42_frame_encoder R182, 40_operand_datapath R118). That the bytes come in one step is the model's choice, log 27. -/
structure EuSends (s t : State) (rest : List HostEvent) (bytes : List Byte) (clamps : List Diag) : Prop where
  input : t.input = rest
  out : t.eOut = s.eOut ++ bytes.map .byte ++ clamps.map .diag
  state : t.e.state = .run
  err : t.e.err = s.e.err
  bytecount : t.e.bytecount = s.e.bytecount + BitVec.ofNat 32 bytes.length
  reccount : t.e.reccount = s.e.reccount + 1
  clamped : t.e.clamped = (s.e.clamped || !clamps.isEmpty)
  clampcount : t.e.clampcount = s.e.clampcount + BitVec.ofNat 32 clamps.length
  written : ∀ a, t.outByte a =
    if s.e.bytecount.toNat ≤ a ∧ a < s.e.bytecount.toNat + bytes.length then bytes[a - s.e.bytecount.toNat]?
    else s.outByte a
  rom_kept : t.rom = s.rom
  decoder_kept : t.d = s.d ∧ t.dOut = s.dOut
  input_kept : ∀ a, t.inByte a = s.inByte a

/-- The EU has raised `ERR_RECORD`: `err`, `state` and `Done(ERR_RECORD)`; no byte is emitted and nothing else of the
state has changed (42_frame_encoder R182, R186; 60_exceptions R253, R257). -/
structure EuRejects (s t : State) (rest : List HostEvent) : Prop where
  input : t.input = rest
  out : t.eOut = s.eOut ++ [.finished .errRecord]
  state : t.e.state = .err
  err : t.e.err = 3
  counts : t.e.bytecount = s.e.bytecount ∧ t.e.reccount = s.e.reccount ∧ t.e.clamped = s.e.clamped ∧
    t.e.clampcount = s.e.clampcount
  rom_kept : t.rom = s.rom
  decoder_kept : t.d = s.d ∧ t.dOut = s.dOut
  input_kept : ∀ a, t.inByte a = s.inByte a
  output_kept : ∀ a, t.outByte a = s.outByte a

/-! ### The values the rules give, in closed form, for the statements -/

/-- The operand a frame's field decodes to (40_operand_datapath R119): as it stands, its magnitude unclamped
(41_frame_decoder R153), or the zero operand for an unknown kind byte. -/
def decodedOperand (f : Field) : Operand :=
  if f.kind ≤ 0x0A then { kind := f.kind.setWidth 4, sc := { src := f.src, mag := f.mag } } else zeroOperand

/-- The diagnostic of an unknown kind byte at offset `off` (10_state R40). -/
def unknownKindAt (off : Count) (f : Field) : List Diag := if f.kind ≤ 0x0A then [] else [.unknownKind off f.kind]

/-- The diagnostic of an unknown opcode byte other than 0x00 at offset `off` (10_state R40). -/
def unknownOpcodeAt (off : Count) (op : Byte) : List Diag := if op = 0x00 then [] else [.unknownOpcode off op]

/-- A magnitude brought down to its kind's ceiling (40_operand_datapath R113, R115). -/
def clampedMag (f : Field) : Byte := if f.mag ≤ ceil (f.kind.setWidth 4) then f.mag else ceil (f.kind.setWidth 4)

/-- The two bytes the EU emits for an operand (40_operand_datapath R117, R124): the kind, and the clamped magnitude,
128 higher for a buffer index. -/
def operandWire (f : Field) : List Byte :=
  [f.kind, match f.src with
    | .num => clampedMag f
    | .buf => clampedMag f + 128]

/-- The clamp event of an operand (40_operand_datapath R118): only where the magnitude is above its kind's ceiling. -/
def clampNote (f : Field) : List Diag :=
  if ceil (f.kind.setWidth 4) < f.mag then [.clamp (f.kind.setWidth 4) f.mag (ceil (f.kind.setWidth 4))] else []

/-- A canonical record (10_state R34): the fields its shape does not use are zero, every magnitude is below 128 and
every kind is a kind. -/
structure CanonicalRecord (r : Rom) (x : Record) : Prop where
  op_admitted : opAdmitted x.op = true
  a_unused : r.shape x.op = .z ∨ r.shape x.op = .w → x.a = zeroOperand
  b_unused : r.shape x.op ≠ .t → x.b = zeroOperand
  w_unused : r.shape x.op ≠ .w → x.w = 0
  mags : x.a.sc.mag < 128 ∧ x.b.sc.mag < 128
  kinds : x.a.kind ≤ 0xA ∧ x.b.kind ≤ 0xA

/-- Whether an event is addressed to the DU (10_state R21). -/
def HostEvent.toDecoder : HostEvent → Bool
  | .startDecode => true
  | .byte _ => true
  | .eos => true
  | .startEncode => false
  | .record _ => false
  | .endScript => false
  | .reset => false

/-- Whether an event is addressed to the EU (10_state R22). -/
def HostEvent.toEncoder : HostEvent → Bool
  | .startDecode => false
  | .byte _ => false
  | .eos => false
  | .startEncode => true
  | .record _ => true
  | .endScript => true
  | .reset => false

/-- Two states the DU cannot tell apart: its own fields, its stream and its output, and the shared ROM. -/
def SameDecoderSide (s t : State) : Prop := t.rom = s.rom ∧ t.d = s.d ∧ t.sIn = s.sIn ∧ t.dOut = s.dOut

/-- Two states the EU cannot tell apart. -/
def SameEncoderSide (s t : State) : Prop := t.rom = s.rom ∧ t.e = s.e ∧ t.sOut = s.sOut ∧ t.eOut = s.eOut

end Sys2Proof.Machine
end

