-- ==== Sys2Proof/Certificates/Slice0/Obligations.lean ====
section
/-! DEFINITION. The statements for the provers. Each docstring names the rules it formalises. Every statement about a
frame or a record holds for every ROM argument (30_encoding R84), since the ROM is part of the state. A rule the spec
itself marks "[derived: …]" is the spec's own inference: a statement of one is marked so in its docstring and rests on
the rules it is derived from. -/

open Sys2Proof Sys2Proof.Machine

/-! ### Encoding -/

/-- Decoding the frame of a well-formed instruction gives it back, whatever bytes follow, with every operand at every
value its encoding admits (30_encoding R72 to R79). -/
def Obligations.DecodeOfEncode : Prop :=
  ∀ (r : Rom) (i : Instr) (rest : List Byte), i.wellFormed r = true → decode r (encode r i ++ rest) = .ok (i, rest)

/-- Whatever a frame decodes to is well formed and encodes to that frame: no bit of any frame, legal or garbage, is
dropped (30_encoding R73 to R76, R89). -/
def Obligations.EncodeOfDecode : Prop :=
  ∀ (r : Rom) (bytes : List Byte) (i : Instr) (rest : List Byte),
    decode r bytes = .ok (i, rest) → i.wellFormed r = true ∧ encode r i ++ rest = bytes

/-- The decoder takes exactly `LEN` of the opcode byte, which is 1, 3 or 5, and refuses exactly a list with fewer bytes
(41_frame_decoder R141; 30_encoding R86, R89). -/
def Obligations.FrameLengthFromOpcodeAlone : Prop :=
  ∀ (r : Rom) (op : Byte) (rest : List Byte),
    (r.len op = 1 ∨ r.len op = 3 ∨ r.len op = 5) ∧
    (decode r (op :: rest) = .error .truncated ↔ rest.length + 1 < r.len op) ∧
    (∀ i later, decode r (op :: rest) = .ok (i, later) → later = rest.drop (r.len op - 1))

/-- The unknown opcodes are the bytes outside the five ranges, 233 of them, 0x00 among them; each has length 1 and
decodes, under every ROM, to the placeholder record that 0x00 gives (30_encoding R85). -/
def Obligations.UnknownOpcodesReconstructAsPlaceholder : Prop :=
  (∀ op : Byte, opKnown op = false ↔
    (op ≤ 0xA0 ∨ (0xA6 ≤ op ∧ op ≤ 0xAF) ∨ (0xB7 ≤ op ∧ op ≤ 0xBF) ∨ (0xC3 ≤ op ∧ op ≤ 0xCF) ∨
      (0xD7 ≤ op ∧ op ≤ 0xFE))) ∧
  ((List.range 256).filter (fun n => !opKnown (BitVec.ofNat 8 n))).length = 233 ∧
  (∀ (r : Rom) (fb : Count) (op : Byte) (pay rest : List Byte), opKnown op = false →
    r.dispatch op = (false, .z) ∧ r.len op = 1 ∧
    decode r (op :: rest) = .ok (.placeholder op, rest) ∧
    (recon r fb op pay).1 = { op := 0x00, a := zeroOperand, b := zeroOperand, w := 0 } ∧
    (recon r fb op pay).1 = (recon r fb 0x00 []).1)

/-- The ROM entries the source fixes (30_encoding R83), and the shapes the constraints of R84 allow on `U`: `W` exactly
at `OPC_JUMP`, `Z` or `T` elsewhere, `Z` at clear-track. -/
def Obligations.DispatchRomEntries : Prop :=
  ∀ r : Rom,
    r.dispatch 0xA1 = (true, .t) ∧ r.dispatch 0xC0 = (true, .o) ∧ r.dispatch 0xC1 = (true, .z) ∧
    r.dispatch 0xFF = (true, .z) ∧ r.dispatch 0x00 = (false, .z) ∧
    (∀ u : UOp, opKnown u.byte = true ∧ (r.shape u.byte = .w ↔ u = r.opcJump) ∧
      (u ≠ r.opcJump → r.shape u.byte = .z ∨ r.shape u.byte = .t)) ∧
    (r.Admissible → r.shape r.opcClear.byte = .z)

/-- A byte of `U` decodes by its ROM argument: the byte at `OPC_JUMP` to `Jump` with its big-endian target, the
clear-track byte to `ClearTrack`, any other to its `Op_XX` in the form `T` or `Z` (30_encoding R84, R94;
43_nsl_instructions R219 to R239). The names `Jump` and `ClearTrack` for their bytes are the model's reading, log 2. -/
def Obligations.OpenBytesDecodeByRomArgument : Prop :=
  ∀ (r : Rom) (u : UOp) (rest : List Byte) (p0 p1 p2 p3 : Byte),
    (u = r.opcJump → decode r (u.byte :: p0 :: p1 :: rest) = .ok (.jump (p0 ++ p1), rest)) ∧
    (u ≠ r.opcJump → u = r.opcClear → decode r (u.byte :: rest) = .ok (.clearTrack, rest)) ∧
    (u ≠ r.opcJump → u ≠ r.opcClear → u ∉ r.twoOps →
      decode r (u.byte :: rest) = .ok (Instr.ofOpen u .zero, rest)) ∧
    (u ≠ r.opcJump → u ≠ r.opcClear → u ∈ r.twoOps →
      decode r (u.byte :: p0 :: p1 :: p2 :: p3 :: rest) =
        .ok (Instr.ofOpen u (.two (fieldOf p0 p1) (fieldOf p2 p3)), rest))

/-- The frames of the source's worked examples decode to the instructions they stand for (30_encoding R83;
43_nsl_instructions R214 to R217). -/
def Obligations.WorkedExamplesDecode : Prop :=
  ∀ (r : Rom),
    decode r [0xA1, 0x02, 0x00, 0x00, 0x24] =
      .ok (.set { kind := 0x02, src := .num, mag := 0 } { kind := 0x00, src := .num, mag := 36 }, []) ∧
    decode r [0xC0, 0x00, 0x20] = .ok (.loopSet { kind := 0x00, src := .num, mag := 32 }, []) ∧
    decode r [0xC1] = .ok (.loopEnd, []) ∧
    decode r [0xFF] = .ok (.endOp, [])

/-! ### The operand datapath -/

/-- The scalar round trips (40_operand_datapath R123, which the spec derives from R110 and R111). -/
def Obligations.ScalarRoundTrips : Prop :=
  (∀ b : Byte, sve (svd b) = some b) ∧
  (∀ (src : Src) (n : Byte), n ≤ 127 → (sve { src := src, mag := n }).map svd = some { src := src, mag := n })

/-- `SVE` (40_operand_datapath R111): a number saturates at 127; a buffer index up to 127 is tagged by adding 128; a
higher one has no byte. -/
def Obligations.ScalarEncodeRule : Prop :=
  ∀ n : Byte,
    (n ≤ 127 → sve { src := .num, mag := n } = some n) ∧
    (127 < n → sve { src := .num, mag := n } = some 127) ∧
    (n ≤ 127 → sve { src := .buf, mag := n } = some (n + 128)) ∧
    (127 < n → sve { src := .buf, mag := n } = none)

/-- `CLAMP` (40_operand_datapath R113): `min(max(mag, lo), hi)` with the source tag kept, and an event exactly where the
magnitude is reduced. -/
def Obligations.ClampRule : Prop :=
  ∀ (sc : Scalar) (lo hi : Byte), lo ≤ hi →
    (clamp sc lo hi).1.src = sc.src ∧
    (clamp sc lo hi).1.mag.toNat = min (max sc.mag.toNat lo.toNat) hi.toNat ∧
    ((clamp sc lo hi).2 = true ↔ (clamp sc lo hi).1.mag < sc.mag)

/-- The ceilings of the 11 kinds (30_encoding R90, 40_operand_datapath R114), in the order decision D20 fixes. -/
def Obligations.CeilingTable : Prop :=
  (List.range 11).map (fun k => ceil (BitVec.ofNat 4 k)) = [127, 127, 31, 31, 31, 31, 31, 3, 127, 127, 100]

/-- Validation is idempotent, and leaves an operand in range unchanged without an event (40_operand_datapath R116,
which the spec derives from R113 and R115). -/
def Obligations.ValidateIdempotent : Prop :=
  ∀ o : Operand,
    validate (validate o).1 = ((validate o).1, false) ∧ (o.sc.mag ≤ ceil o.kind → validate o = (o, false))

/-- After validation the scalar encoder never saturates and never refuses (40_operand_datapath R124, which the spec
derives from R111, R114 and R115). -/
def Obligations.ValidatedScalarNeverRefused : Prop :=
  ∀ o : Operand, o.kind ≤ 0xA →
    (validate o).1.sc.mag ≤ ceil o.kind ∧ ceil o.kind ≤ 127 ∧
    sve (validate o).1.sc =
      some (match o.sc.src with
        | .num => (validate o).1.sc.mag
        | .buf => (validate o).1.sc.mag + 128)

/-- Operand decode is total, with a kind up to 0xA and a magnitude up to 127 (40_operand_datapath R120, which the spec
derives from R110 and R119). -/
def Obligations.OperandDecodeInBounds : Prop :=
  ∀ k s : Byte, (opd k s).1.kind ≤ 0xA ∧ (opd k s).1.sc.mag ≤ 127 ∧ ((opd k s).2 = true ↔ 0x0A < k)

/-- The operand round trip: exact in range; a known kind above its ceiling comes back clamped with an event; an unknown
kind comes back as two zero bytes (40_operand_datapath R125, which the spec derives from R117 and R119). -/
def Obligations.OperandRoundTrip : Prop :=
  ∀ k s : Byte,
    (k ≤ 0x0A → (svd s).mag ≤ ceil (k.setWidth 4) → ope (opd k s).1 = some ([k, s], false)) ∧
    (k ≤ 0x0A → ceil (k.setWidth 4) < (svd s).mag →
      ope (opd k s).1 = some ([k, srcBit (svd s).src ++ (ceil (k.setWidth 4)).extractLsb' 0 7], true)) ∧
    (0x0A < k → ope (opd k s).1 = some ([0x00, 0x00], false))

/-- The wide-integer round trips (40_operand_datapath R126, which the spec derives from R121 and R122). -/
def Obligations.WideRoundTrip : Prop :=
  (∀ v : Wide, ∃ hi lo, wideEnc v = [hi, lo] ∧ wideDec hi lo = v) ∧
  (∀ hi lo : Byte, wideEnc (wideDec hi lo) = [hi, lo] ∧ (wideDec hi lo).toNat = hi.toNat * 256 + lo.toNat)

/-! ### What each instruction does in the DU: it completes, with this record and nothing else changed -/

/-- Shape `Z` in the DU (43_nsl_instructions R210, R216, R217, R218, R220): `LoopEnd`, `End`, `Placeholder` from any
unknown byte, and `ClearTrack` complete with their skeletons; only an unknown byte other than 0x00 gives a diagnostic. -/
def Obligations.ZeroOperandFramesDecode : Prop :=
  ∀ (s : State) (last : Byte) (rest : List HostEvent), LastByte s last rest →
    (∃ t, exec .loopEnd s = .next t ∧
      DuCompletes s t last rest { op := 0xC1, a := zeroOperand, b := zeroOperand, w := 0 } []) ∧
    (∃ t, exec .endOp s = .next t ∧
      DuCompletes s t last rest { op := 0xFF, a := zeroOperand, b := zeroOperand, w := 0 } []) ∧
    (∀ raw : Byte, opKnown raw = false → ∃ t, exec (.placeholder raw) s = .next t ∧
      DuCompletes s t last rest { op := 0x00, a := zeroOperand, b := zeroOperand, w := 0 }
        (unknownOpcodeAt (arrivingBase s) raw)) ∧
    (∃ t, exec .clearTrack s = .next t ∧
      DuCompletes s t last rest { op := s.rom.opcClear.byte, a := zeroOperand, b := zeroOperand, w := 0 } [])

/-- `LoopSet` in the DU (43_nsl_instructions R211, R215): its operand is reconstructed, unclamped; an unknown kind byte
gives the zero operand and a diagnostic at the kind byte's offset. -/
def Obligations.LoopSetFrameDecodes : Prop :=
  ∀ (s : State) (last : Byte) (rest : List HostEvent) (a : Field), LastByte s last rest → a.magFits = true →
    ∃ t, exec (.loopSet a) s = .next t ∧
      DuCompletes s t last rest { op := 0xC0, a := decodedOperand a, b := zeroOperand, w := 0 }
        (unknownKindAt (arrivingBase s + 1) a)

/-- `Jump` in the DU (43_nsl_instructions R212, R219): its wide integer is carried, uninterpreted. -/
def Obligations.JumpFrameDecodes : Prop :=
  ∀ (s : State) (last : Byte) (rest : List HostEvent) (v : Wide), LastByte s last rest →
    ∃ t, exec (.jump v) s = .next t ∧
      DuCompletes s t last rest { op := s.rom.opcJump.byte, a := zeroOperand, b := zeroOperand, w := v } []

/-- `Set` in the DU (43_nsl_instructions R213, R214): both operands are reconstructed, each on its own. -/
def Obligations.SetFrameDecodes : Prop :=
  ∀ (s : State) (last : Byte) (rest : List HostEvent) (a b : Field), LastByte s last rest → a.magFits = true →
    b.magFits = true →
    ∃ t, exec (.set a b) s = .next t ∧
      DuCompletes s t last rest { op := 0xA1, a := decodedOperand a, b := decodedOperand b, w := 0 }
        (unknownKindAt (arrivingBase s + 1) a ++ unknownKindAt (arrivingBase s + 3) b)

/-- The 19 unassigned opcodes `Op_A2` to `Op_D6` in the DU, in both their forms (43_nsl_instructions R210, R213, R221
to R239): the record keeps the byte as its variant, with no unknown-opcode diagnostic. -/
def Obligations.OpenOpcodeFramesDecode : Prop :=
  ∀ (s : State) (last : Byte) (rest : List HostEvent) (u : UOp), LastByte s last rest →
    (∃ t, exec (Instr.ofOpen u .zero) s = .next t ∧
      DuCompletes s t last rest { op := u.byte, a := zeroOperand, b := zeroOperand, w := 0 } []) ∧
    (∀ a b : Field, a.magFits = true → b.magFits = true → ∃ t, exec (Instr.ofOpen u (.two a b)) s = .next t ∧
      DuCompletes s t last rest { op := u.byte, a := decodedOperand a, b := decodedOperand b, w := 0 }
        (unknownKindAt (arrivingBase s + 1) a ++ unknownKindAt (arrivingBase s + 3) b))

/-! ### What each instruction does in the EU: it completes, with these bytes and nothing else changed -/

/-- Shape `Z` in the EU (43_nsl_instructions R210, R216, R217, R218, R220): one byte, the canonical opcode, and no clamp
event. That a frame's bytes come in one step is the model's choice, log 27. -/
def Obligations.ZeroOperandRecordsEncode : Prop :=
  ∀ (s : State) (rec : Record) (rest : List HostEvent), RecordArrives s rec rest →
    s.e.bytecount.toNat + 1 ≤ maxStreamLen →
    (∃ t, exec .loopEnd s = .next t ∧ EuSends s t rest [0xC1] []) ∧
    (∃ t, exec .endOp s = .next t ∧ EuSends s t rest [0xFF] []) ∧
    (∀ raw : Byte, opKnown raw = false → ∃ t, exec (.placeholder raw) s = .next t ∧ EuSends s t rest [0x00] []) ∧
    (∃ t, exec .clearTrack s = .next t ∧ EuSends s t rest [s.rom.opcClear.byte] [])

/-- `LoopSet` in the EU (43_nsl_instructions R211, R215): opcode, kind and clamped scalar, with a clamp event exactly
where the magnitude is above its kind's ceiling. That a frame's bytes come in one step is the model's choice, log 27. -/
def Obligations.LoopSetRecordEncodes : Prop :=
  ∀ (s : State) (rec : Record) (rest : List HostEvent) (a : Field), RecordArrives s rec rest → a.kind ≤ 0x0A →
    s.e.bytecount.toNat + 3 ≤ maxStreamLen →
    ∃ t, exec (.loopSet a) s = .next t ∧ EuSends s t rest (0xC0 :: operandWire a) (clampNote a)

/-- `Jump` in the EU (43_nsl_instructions R212, R219): opcode, high byte, low byte; never clamped. That a frame's bytes
come in one step is the model's choice, log 27. -/
def Obligations.JumpRecordEncodes : Prop :=
  ∀ (s : State) (rec : Record) (rest : List HostEvent) (v : Wide), RecordArrives s rec rest →
    s.e.bytecount.toNat + 3 ≤ maxStreamLen →
    ∃ t, exec (.jump v) s = .next t ∧
      EuSends s t rest [s.rom.opcJump.byte, BitVec.ofNat 8 (v.toNat / 256), BitVec.ofNat 8 (v.toNat % 256)] []

/-- `Set` in the EU (43_nsl_instructions R213, R214): opcode and both operands, a validated and emitted before b. That a
frame's bytes come in one step is the model's choice, log 27. -/
def Obligations.SetRecordEncodes : Prop :=
  ∀ (s : State) (rec : Record) (rest : List HostEvent) (a b : Field), RecordArrives s rec rest → a.kind ≤ 0x0A →
    b.kind ≤ 0x0A → s.e.bytecount.toNat + 5 ≤ maxStreamLen →
    ∃ t, exec (.set a b) s = .next t ∧
      EuSends s t rest (0xA1 :: operandWire a ++ operandWire b) (clampNote a ++ clampNote b)

/-- The 19 unassigned opcodes `Op_A2` to `Op_D6` in the EU, in both their forms (43_nsl_instructions R210, R213, R221 to
R239). That a frame's bytes come in one step is the model's choice, log 27. -/
def Obligations.OpenOpcodeRecordsEncode : Prop :=
  ∀ (s : State) (rec : Record) (rest : List HostEvent) (u : UOp), RecordArrives s rec rest →
    (s.e.bytecount.toNat + 1 ≤ maxStreamLen →
      ∃ t, exec (Instr.ofOpen u .zero) s = .next t ∧ EuSends s t rest [u.byte] []) ∧
    (∀ a b : Field, a.kind ≤ 0x0A → b.kind ≤ 0x0A → s.e.bytecount.toNat + 5 ≤ maxStreamLen →
      ∃ t, exec (Instr.ofOpen u (.two a b)) s = .next t ∧
        EuSends s t rest (u.byte :: operandWire a ++ operandWire b) (clampNote a ++ clampNote b))

/-- An unknown kind in an operand makes the EU raise `ERR_RECORD` with no byte emitted: `LoopSet`, `Set` and the
two-operand form of every unassigned opcode (43_nsl_instructions R211, R213; 42_frame_encoder R182, R184). -/
def Obligations.UnknownKindRaisesErrRecord : Prop :=
  ∀ (s : State) (rec : Record) (rest : List HostEvent) (a b : Field) (u : UOp), RecordArrives s rec rest →
    (0x0A < a.kind → ∃ t, exec (.loopSet a) s = .next t ∧ EuRejects s t rest) ∧
    (0x0A < a.kind ∨ 0x0A < b.kind →
      (∃ t, exec (.set a b) s = .next t ∧ EuRejects s t rest) ∧
      (∃ t, exec (Instr.ofOpen u (.two a b)) s = .next t ∧ EuRejects s t rest))

/-! ### A step runs the decoded instruction -/

/-- When the bytes of the frame that the next byte completes decode to an instruction, the step is that instruction's
meaning, and nothing is added around it; the same when a record arrives in `E_RUN` that stands for one
(41_frame_decoder R148, R150; 42_frame_encoder R182). -/
def Obligations.StepRunsTheDecodedInstruction : Prop :=
  ∀ (s : State) (rest : List HostEvent) (i : Instr),
    (∀ last, s.input = .byte last :: rest → frameCompletes s last = true →
      decode s.rom (frameBytes s last) = .ok (i, []) → step s = exec i s) ∧
    (∀ rec, s.input = .record rec :: rest → s.e.state = .run → instrOfRecord s.rom rec = some i → step s = exec i s)

/-- A table word delivered to the DU runs, in the very next step, as the instruction the decoder reads from it, and
completes (log 7: the model's convention, not a rule of the spec). -/
def Obligations.DeliveredTableWordRuns : Prop :=
  ∀ (s : State) (nbits w : Nat) (i : Instr), decodeTableWord nbits w = some i →
    step (s.withFetchWord nbits w) = exec i (s.withFetchWord nbits w) ∧
    ∃ t, step (s.withFetchWord nbits w) = .next t ∧ t.e = s.e ∧ t.input = s.input

/-- A completed frame steps to the record and the diagnostics `RECON` gives (41_frame_decoder R144, R152): the
instruction's meaning and the reference function agree on every frame. -/
def Obligations.DecoderEmitsRecon : Prop :=
  ∀ (s : State) (last : Byte) (rest : List HostEvent) (op : Byte) (pay : List Byte), LastByte s last rest →
    frameBytes s last = op :: pay →
    ∃ i t, decode s.rom (op :: pay) = .ok (i, []) ∧ step s = .next t ∧
      t.dOut = s.dOut ++ .record (recon s.rom (arrivingBase s) op pay).1 ::
        (recon s.rom (arrivingBase s) op pay).2.map .diag ∧
      t.d.reccount = s.d.reccount + 1

/-- A well-formed record steps to the bytes `ENCREC` gives, which are as many as `LEN` of its opcode, and its clamp
events are counted (42_frame_encoder R180, R182). That a frame's bytes come in one step is the model's choice, log
27. -/
def Obligations.EncoderEmitsEncrec : Prop :=
  ∀ (s : State) (rec : Record) (rest : List HostEvent), RecordArrives s rec rest → wfRecord s.rom rec = true →
    ∃ bytes evts, encRec s.rom rec = some (bytes, evts) ∧ bytes.length = s.rom.len rec.op ∧
      (s.e.bytecount.toNat + bytes.length ≤ maxStreamLen →
        ∃ t clamps, step s = .next t ∧ EuSends s t rest bytes clamps ∧ clamps.length = evts.count true)

/-- A record that fails `WF`, by its opcode or by a kind its shape uses, raises `ERR_RECORD` and emits no byte
(42_frame_encoder R182, R184; 60_exceptions R253). -/
def Obligations.IllFormedRecordRaisesErrRecord : Prop :=
  ∀ (s : State) (rec : Record) (rest : List HostEvent), RecordArrives s rec rest → wfRecord s.rom rec = false →
    ∃ t, step s = .next t ∧ EuRejects s t rest

/-- Every record the DU emits is canonical (10_state R34, which the spec derives from R33 and 41_frame_decoder
R152). -/
def Obligations.EmittedRecordsAreCanonical : Prop :=
  ∀ (s t : State) (events : List DuOut) (x : Record), step s = .next t → t.dOut = s.dOut ++ events →
    .record x ∈ events → CanonicalRecord s.rom x

/-! ### Events that complete no instruction -/

/-- `StartDecode` (41_frame_decoder R146): between runs it sets every DU field to its value after `StartDecode`
(10_state R37, third column) and emits nothing; during a run it is not admitted. No byte of the new stream has been
received yet, so none of its offsets exists (20_memory R51). -/
def Obligations.StartDecodeEffect : Prop :=
  ∀ (s : State) (rest : List HostEvent), s.input = .startDecode :: rest →
    (s.d.state = .idle ∨ s.d.state = .done ∨ s.d.state = .err →
      ∃ t, step s = .next t ∧ t.input = rest ∧ t.dOut = s.dOut ∧ SameEncoderSide s t ∧ (∀ a, t.inByte a = none) ∧
        t.d = { state := .hdr, cursor := 0, hdrIdx := 0, frameBase := 0, curOp := 0x00, curLen := 1,
                pay := { p0 := 0, p1 := 0, p2 := 0, p3 := 0 }, payIdx := 0, version := 0x00, versionValid := false,
                err := 0, reccount := 0 }) ∧
    (s.d.state = .hdr ∨ s.d.state = .opc ∨ s.d.state = .pay → step s = .refused .eventNotAdmitted)

/-- `Byte(b)` in `D_HDR` (41_frame_decoder R147): the tag is checked byte by byte, a mismatch raises `ERR_HEADER` with
the cursor left at the offending offset, and the byte at offset 3 is captured whatever its value. Each of them, the
mismatching byte too, is the byte of the input stream at the cursor, and no other is changed: that it has been received
is 20_memory R51, how the stream is held in the state is the model's choice, log 5. -/
def Obligations.HeaderByteEffect : Prop :=
  ∀ (s : State) (b : Byte) (rest : List HostEvent), s.input = .byte b :: rest → s.d.state = .hdr →
    s.d.cursor.toNat < maxStreamLen →
    let stored := fun t : State => ∀ a, t.inByte a = if a = s.d.cursor.toNat then some b else s.inByte a
    (s.d.hdrIdx ≠ 3 → tag[s.d.hdrIdx.toNat]? = some b →
      ∃ t, step s = .next t ∧ t.d = { s.d with hdrIdx := s.d.hdrIdx + 1, cursor := s.d.cursor + 1 } ∧
        t.dOut = s.dOut ∧ t.input = rest ∧ SameEncoderSide s t ∧ stored t) ∧
    (s.d.hdrIdx ≠ 3 → tag[s.d.hdrIdx.toNat]? ≠ some b →
      ∃ t, step s = .next t ∧ t.d = { s.d with err := 1, state := .err } ∧
        t.dOut = s.dOut ++ [.finished .errHeader] ∧ t.input = rest ∧ SameEncoderSide s t ∧ stored t) ∧
    (s.d.hdrIdx = 3 →
      ∃ t, step s = .next t ∧ t.d = { s.d with version := b, versionValid := true, cursor := 4, state := .opc } ∧
        t.dOut = s.dOut ∧ t.input = rest ∧ SameEncoderSide s t ∧ stored t)

/-- `Byte(b)` in `D_OPC` (41_frame_decoder R148): the frame's base, opcode and length are latched from the opcode alone;
a one-byte frame emits its record at once, any other goes on to its payload. -/
def Obligations.OpcodeByteEffect : Prop :=
  ∀ (s : State) (b : Byte) (rest : List HostEvent), s.input = .byte b :: rest → s.d.state = .opc →
    s.d.cursor.toNat < maxStreamLen →
    ∃ t, step s = .next t ∧ t.input = rest ∧ SameEncoderSide s t ∧
      (∀ a, t.inByte a = if a = s.d.cursor.toNat then some b else s.inByte a) ∧
      t.d = { s.d with
        frameBase := s.d.cursor
        curOp := b
        curLen := BitVec.ofNat 3 (s.rom.len b)
        payIdx := 0
        cursor := s.d.cursor + 1
        state := if s.rom.len b = 1 then .opc else .pay
        reccount := if s.rom.len b = 1 then s.d.reccount + 1 else s.d.reccount } ∧
      t.dOut = s.dOut ++ (if s.rom.len b = 1 then
        .record (recon s.rom s.d.cursor b []).1 :: (recon s.rom s.d.cursor b []).2.map .diag else [])

/-- `Byte(b)` in `D_PAY` (41_frame_decoder R150), where the frame's length is that of its opcode (10_state R23): the
byte is stored, and the last one emits the record of the collected payload. -/
def Obligations.PayloadByteEffect : Prop :=
  ∀ (s : State) (b : Byte) (rest : List HostEvent), s.input = .byte b :: rest → s.d.state = .pay →
    s.d.cursor.toNat < maxStreamLen → DuConsistent s.rom s.d →
    let done := s.d.payIdx.toNat + 2 = s.d.curLen.toNat
    let pay := Pay.set s.d.pay s.d.payIdx b
    let out := recon s.rom s.d.frameBase s.d.curOp (pay.toList.take (s.d.curLen.toNat - 1))
    ∃ t, step s = .next t ∧ t.input = rest ∧ SameEncoderSide s t ∧
      (∀ a, t.inByte a = if a = s.d.cursor.toNat then some b else s.inByte a) ∧
      t.d = { s.d with
        pay := pay
        payIdx := s.d.payIdx + 1
        cursor := s.d.cursor + 1
        state := if done then .opc else .pay
        reccount := if done then s.d.reccount + 1 else s.d.reccount } ∧
      t.dOut = s.dOut ++ (if done then .record out.1 :: out.2.map .diag else [])

/-- `Eos` (41_frame_decoder R149 to R151): between frames, and after exactly the tag, the run ends in `OK`; inside the
tag in `ERR_HEADER`; inside a frame in `ERR_TRUNCATED`; the cursor and the counters are kept. -/
def Obligations.EndOfStreamEffect : Prop :=
  ∀ (s : State) (rest : List HostEvent), s.input = .eos :: rest →
    (s.d.state = .opc ∨ (s.d.state = .hdr ∧ s.d.hdrIdx = 3) →
      step s = .next { s with input := rest, d := { s.d with state := .done }, dOut := s.dOut ++ [.finished .ok] }) ∧
    (s.d.state = .hdr ∧ s.d.hdrIdx ≠ 3 →
      step s = .next { s with
        input := rest, d := { s.d with err := 1, state := .err }, dOut := s.dOut ++ [.finished .errHeader] }) ∧
    (s.d.state = .pay →
      step s = .next { s with
        input := rest, d := { s.d with err := 2, state := .err }, dOut := s.dOut ++ [.finished .errTruncated] })

/-- `StartEncode` (42_frame_encoder R181): between runs it sets every EU field to its value after `StartEncode`
(10_state R37, third column) and emits the four header bytes, which are then the whole output stream, at offsets 0 to 3
(20_memory R50, R52); during a run it is not admitted (R185). -/
def Obligations.StartEncodeEffect : Prop :=
  ∀ (s : State) (rest : List HostEvent), s.input = .startEncode :: rest →
    (s.e.state = .idle ∨ s.e.state = .done ∨ s.e.state = .err →
      ∃ t, step s = .next t ∧ t.input = rest ∧ SameDecoderSide s t ∧
        t.eOut = s.eOut ++ [.byte 0x4E, .byte 0x53, .byte 0x4C, .byte 0x01] ∧
        (∀ a, t.outByte a = [0x4E, 0x53, 0x4C, 0x01][a]?) ∧
        t.e = { state := .run, err := 0, bytecount := 4, reccount := 0, clamped := false, clampcount := 0 }) ∧
    (s.e.state = .run → step s = .refused .eventNotAdmitted)

/-- `EndScript` in `E_RUN` (42_frame_encoder R183): `E_DONE` and `Done(OK)`, and no terminator byte. -/
def Obligations.EndScriptEffect : Prop :=
  ∀ (s : State) (rest : List HostEvent), s.input = .endScript :: rest → s.e.state = .run →
    step s = .next { s with input := rest, e := { s.e with state := .done }, eOut := s.eOut ++ [.finished .ok] }

/-- In an error state every event of the run is consumed and nothing changes (41_frame_decoder R151, 42_frame_encoder
R185): no field of a unit, no output. A drained byte, within `MAX_STREAM_LEN`, is still the next byte received of the
input stream (20_memory R51). -/
def Obligations.ErrorStatesDrain : Prop :=
  ∀ (s : State) (ev : HostEvent) (rest : List HostEvent), s.input = ev :: rest →
    (∀ b, ev = .byte b → s.d.state = .err → received s < maxStreamLen →
      ∃ t, step s = .next t ∧ t.input = rest ∧ t.d = s.d ∧ t.dOut = s.dOut ∧ SameEncoderSide s t ∧
        (∀ a, t.inByte a = if a = received s then some b else s.inByte a)) ∧
    (ev = .eos → s.d.state = .err → step s = .next { s with input := rest }) ∧
    (ev = .endScript ∨ (∃ rec, ev = .record rec) → s.e.state = .err → step s = .next { s with input := rest })

/-- Reset (70_reset_and_hazards R280): every field of both units at its reset value (10_state R37), no event emitted,
the ROM untouched, in whatever state the units are. That the byte spaces are then empty, and that the waiting events
stay, is the model's choice, log 5 and log 14. -/
def Obligations.ResetEffect : Prop :=
  ∀ (s : State) (rest : List HostEvent), s.input = .reset :: rest →
    step s = .next { s with
      input := rest
      sIn := []
      sOut := []
      d := { state := .idle, cursor := 0, hdrIdx := 0, frameBase := 0, curOp := 0x00, curLen := 1,
             pay := { p0 := 0, p1 := 0, p2 := 0, p3 := 0 }, payIdx := 0, version := 0x00, versionValid := false,
             err := 0, reccount := 0 }
      e := { state := .idle, err := 0, bytecount := 0, reccount := 0, clamped := false, clampcount := 0 } }

/-! ### The host contract -/

/-- A step refuses an event as not admitted exactly where the host contract does not admit it (70_reset_and_hazards
R286). -/
def Obligations.RefusesExactlyInadmissibleEvents : Prop :=
  ∀ s : State, step s = .refused .eventNotAdmitted ↔ nextAdmitted s = false

/-- A byte past `MAX_STREAM_LEN`, drained or not, and a record whose bytes would take the output past it, are refused;
short of it they are not. That such a stream or script is refused is 70_reset_and_hazards R287; at which byte or record
the refusal falls is the model's reading, log 8. -/
def Obligations.RefusesExactlyPastMaxStreamLen : Prop :=
  ∀ (s : State) (rest : List HostEvent),
    (∀ b, s.input = .byte b :: rest → (s.d.state = .hdr ∨ s.d.state = .opc ∨ s.d.state = .pay) →
      (step s = .refused .streamTooLong ↔ s.d.cursor.toNat = maxStreamLen)) ∧
    (∀ b, s.input = .byte b :: rest → s.d.state = .err →
      (step s = .refused .streamTooLong ↔ maxStreamLen ≤ received s)) ∧
    (∀ rec p, s.input = .record rec :: rest → s.e.state = .run → wfRecord s.rom rec = true →
      encRec s.rom rec = some p →
      (step s = .refused .outputTooLong ↔ maxStreamLen < s.e.bytecount.toNat + p.1.length))

/-- No step faults, and a step refuses only for the host contract: an event not admitted, or a length limit
(70_reset_and_hazards R286, R287 with log 8; 60_exceptions R255: `SVE` is never refused inside the block). -/
def Obligations.OnlyTheHostContractRefuses : Prop :=
  ∀ s : State, (∃ t, step s = .next t) ∨ step s = .refused .eventNotAdmitted ∨ step s = .refused .streamTooLong ∨
    step s = .refused .outputTooLong

/-! ### Reset and invariants -/

/-- The reset values of every field of both units (10_state R37, first column). The empty queues and byte spaces of the
model's own fields are not part of this statement. -/
def Obligations.ResetValues : Prop :=
  State.reset.d = { state := .idle, cursor := 0, hdrIdx := 0, frameBase := 0, curOp := 0x00, curLen := 1,
                    pay := { p0 := 0, p1 := 0, p2 := 0, p3 := 0 }, payIdx := 0, version := 0x00,
                    versionValid := false, err := 0, reccount := 0 } ∧
  State.reset.e = { state := .idle, err := 0, bytecount := 0, reccount := 0, clamped := false, clampcount := 0 } ∧
  dstatus State.reset.d = 0 ∧ estatus State.reset.e = 0

/-- The invariant holds at reset. That the input byte space is then empty, which `InputContiguous` needs beside the
cursor's 0, is the model's choice, log 5: the spec says it of the output stream only (20_memory R50). -/
def Obligations.InvariantAtReset : Prop := Inv State.reset

/-- Every step keeps the invariant: the DU's and the EU's fields agree with one another, no counter has wrapped, and the
offsets of both byte spaces are consecutive from 0 (10_state R23 to R29; 20_memory R51, R52; 70_reset_and_hazards R287).
That the byte spaces are held in the state at all, and that reset empties the input's, is the model's choice, log 5 and
log 14; at which event a stream past the limit is refused is its reading, log 8. -/
def Obligations.StepKeepsInvariant : Prop := ∀ s t : State, Inv s → step s = .next t → Inv t

/-- No step changes the ROM arguments (70_reset_and_hazards R282, 10_state R36). -/
def Obligations.StepKeepsRom : Prop := ∀ s t : State, step s = .next t → t.rom = s.rom

/-- Every step keeps both byte spaces in canonical form, offsets strictly rising. That a byte space is a list in such a
form is the model's choice, log 5: the spec gives the offsets (20_memory, section 1), not how they are held. -/
def Obligations.StepKeepsByteSpacesCanonical : Prop :=
  ∀ s t : State, Memory.wf s.sIn → Memory.wf s.sOut → step s = .next t → Memory.wf t.sIn ∧ Memory.wf t.sOut

/-! ### Whole-machine rules -/

/-- Only a unit's start event or reset leaves its error state, and while it lasts its error code stays (60_exceptions
R258). -/
def Obligations.OnlyStartOrResetLeavesErrorState : Prop :=
  ∀ s t : State, step s = .next t →
    (s.d.state = .err → (t.d.state = .err ∧ t.d.err = s.d.err) ∨
      ∃ rest, s.input = .startDecode :: rest ∨ s.input = .reset :: rest) ∧
    (s.e.state = .err → (t.e.state = .err ∧ t.e.err = s.e.err) ∨
      ∃ rest, s.input = .startEncode :: rest ∨ s.input = .reset :: rest)

/-- Each unit ends a run with its own statuses only, and exactly by entering its final state: a step that emits `Done`
enters `D_DONE`, `D_ERR`, `E_DONE` or `E_ERR` from another state, with the code of that status, and a step that enters
one of them emits one `Done` and nothing else. The DU never answers `ERR_RECORD`, the EU never a stream error (10_state
R27, 60_exceptions R250). -/
def Obligations.StatusesBelongToTheirUnit : Prop :=
  ∀ s t : State, step s = .next t →
    (∀ events, t.dOut = s.dOut ++ events →
      (∀ st, .finished st ∈ events → t.d.state ≠ s.d.state ∧
        ((st = .ok ∧ t.d.state = .done) ∨ ((st = .errHeader ∨ st = .errTruncated) ∧ t.d.state = .err ∧
          t.d.err = statusCode st))) ∧
      (t.d.state ≠ s.d.state → t.d.state = .done ∨ t.d.state = .err → ∃ st, events = [.finished st])) ∧
    (∀ events, t.eOut = s.eOut ++ events →
      (∀ st, .finished st ∈ events → t.e.state ≠ s.e.state ∧
        ((st = .ok ∧ t.e.state = .done) ∨ (st = .errRecord ∧ t.e.state = .err ∧ t.e.err = statusCode st))) ∧
      (t.e.state ≠ s.e.state → t.e.state = .done ∨ t.e.state = .err → ∃ st, events = [.finished st]))

/-- Every admitted byte moves the cursor on by one or leaves the DU in `D_ERR`, and the end of the stream always leads to
`D_DONE` or `D_ERR` (41_frame_decoder R158, which the spec derives from R146 to R151). -/
def Obligations.EveryDecodeMakesProgress : Prop :=
  ∀ (s t : State) (rest : List HostEvent), DuConsistent s.rom s.d → step s = .next t →
    (∀ b, s.input = .byte b :: rest → t.d.cursor.toNat = s.d.cursor.toNat + 1 ∨ t.d.state = .err) ∧
    (s.input = .eos :: rest → t.d.state = .done ∨ t.d.state = .err)

/-- The units share no mutable state (20_memory R63, 60_exceptions R262, which the spec derives): an event of one leaves
the other's side alone, and what it does depends on its own side only. -/
def Obligations.UnitsDoNotInterfere : Prop :=
  ∀ (s s' t : State) (ev : HostEvent) (rest rest' : List HostEvent), s.input = ev :: rest → s'.input = ev :: rest' →
    step s = .next t →
    (ev.toDecoder = true → SameEncoderSide s t ∧
      (SameDecoderSide s s' → ∃ t', step s' = .next t' ∧ SameDecoderSide t t' ∧ SameEncoderSide s' t')) ∧
    (ev.toEncoder = true → SameDecoderSide s t ∧
      (SameEncoderSide s s' → ∃ t', step s' = .next t' ∧ SameEncoderSide t t' ∧ SameDecoderSide s' t'))

/-- The observation words (10_state R28, R30) with the state codes of R23 and R29: the bits of `DSTATUS` and `ESTATUS`,
and the field each other word reads. `DSTATUS`'s version field is 0 while no version has been received, in every state
that keeps the invariant of the DU. -/
def Obligations.StatusWordFields : Prop :=
  (∀ (r : Rom) (d : DecoderUnit),
    (dstatus d).extractLsb' 0 3 = (match d.state with
      | .idle => 0
      | .hdr => 1
      | .opc => 2
      | .pay => 3
      | .done => 4
      | .err => 5) ∧
    (dstatus d).extractLsb' 3 2 = d.err ∧
    (dstatus d).getLsbD 5 = d.versionValid ∧ (dstatus d).extractLsb' 6 2 = 0 ∧
    (dstatus d).extractLsb' 8 8 = d.version ∧ (dstatus d).extractLsb' 16 16 = 0 ∧
    (DuConsistent r d → d.versionValid = false → (dstatus d).extractLsb' 8 8 = 0) ∧
    dcursor d = d.cursor ∧ dreccount d = d.reccount) ∧
  (∀ e : EncoderUnit,
    (estatus e).extractLsb' 0 2 = (match e.state with
      | .idle => 0
      | .run => 1
      | .done => 2
      | .err => 3) ∧
    (estatus e).extractLsb' 2 2 = e.err ∧
    (estatus e).getLsbD 4 = e.clamped ∧ (estatus e).extractLsb' 5 27 = 0 ∧
    ebytecount e = e.bytecount ∧ ereccount e = e.reccount ∧ eclampcount e = e.clampcount)

/-! ### Whole runs -/

/-- The state machine agrees with `DECODE` (41_frame_decoder R156, which the spec derives from R146 to R155): from
between runs, a stream within `MAX_STREAM_LEN` delivered with its start and end takes `n + 2` steps
(70_reset_and_hazards R291), emits one status, and its result is `DECODE`'s; the cursor, the count and the provisional
records are as R156 and 60_exceptions R251 and R252 say for each status, every byte of the stream, drained ones too, stands at its offset (20_memory
R51), and the EU's side is untouched. -/
def Obligations.DecoderRunAgreesWithDecode : Prop :=
  ∀ (s : State) (bytes : List Byte), s.d.state.atRest = true → bytes.length ≤ maxStreamLen →
    s.input = decodeEvents bytes →
    ∃ t events, Sys2Proof.core.run (bytes.length + 2) s = .next t ∧ t.input = [] ∧ t.dOut = s.dOut ++ events ∧
      SameEncoderSide s t ∧ (∀ a, t.inByte a = bytes[a]?) ∧
      statusesOf events = [(decodeStream s.rom bytes).1] ∧
      decodeResult events = some (decodeStream s.rom bytes) ∧
      ((decodeStream s.rom bytes).1 = .ok →
        recordsOf events = (decodeStream s.rom bytes).2 ∧
        t.d.reccount.toNat = (decodeStream s.rom bytes).2.length ∧ t.d.cursor.toNat = bytes.length) ∧
      ((decodeStream s.rom bytes).1 = .errTruncated →
        recordsOf events = completeRecords s.rom bytes ∧
        t.d.reccount.toNat = (completeRecords s.rom bytes).length ∧ t.d.cursor.toNat = bytes.length) ∧
      ((decodeStream s.rom bytes).1 = .errHeader →
        recordsOf events = [] ∧ t.d.reccount = 0 ∧ t.d.cursor.toNat = firstMismatch tag bytes)

/-- The state machine agrees with `ENCODE` (42_frame_encoder R189, which the spec derives from R180 to R188): from
between runs, a script whose output stays within `MAX_STREAM_LEN` takes `k + 2` steps (70_reset_and_hazards R291), emits
one status, and its result is `ENCODE`'s; the bytes stand in the output stream at their offsets, and the clamp count is
the number of operand fields validation reduced. That a frame's bytes come in one step is the model's choice, log 27. -/
def Obligations.EncoderRunAgreesWithEncode : Prop :=
  ∀ (s : State) (rs : List Record), s.e.state.atRest = true →
    (encodeScript s.rom (wellFormedPrefix s.rom rs)).2.length ≤ maxStreamLen → s.input = encodeEvents rs →
    ∃ t events, Sys2Proof.core.run (rs.length + 2) s = .next t ∧ t.input = [] ∧ t.eOut = s.eOut ++ events ∧
      SameDecoderSide s t ∧
      euStatusesOf events = [(encodeScript s.rom rs).1] ∧
      encodeResult events = some (encodeScript s.rom rs) ∧
      bytesOf events = (encodeScript s.rom (wellFormedPrefix s.rom rs)).2 ∧
      (∀ a, t.outByte a = (bytesOf events)[a]?) ∧
      t.e.bytecount.toNat = (bytesOf events).length ∧
      t.e.reccount.toNat = (wellFormedPrefix s.rom rs).length ∧
      t.e.clampcount.toNat = ((wellFormedPrefix s.rom rs).map (clampsOf s.rom)).sum

/-- Encode after decode is the identity exactly on the valid streams, and there no operand is clamped (41_frame_decoder
R160 and 42_frame_encoder R190, which the spec derives; R160: the largest set for which the identity holds). -/
def Obligations.RoundTripExactlyOnValidStreams : Prop :=
  ∀ (r : Rom) (bytes : List Byte), (decodeStream r bytes).1 = .ok →
    (validStream r bytes = true ↔ encodeScript r (decodeStream r bytes).2 = (.ok, bytes)) ∧
    (validStream r bytes = true → ((decodeStream r bytes).2.map (clampsOf r)).sum = 0)

/-- Decode after encode gives the records back up to clamping and unused fields, for every ROM (42_frame_encoder R191,
which the spec derives from R180, R188 and 41_frame_decoder R155). -/
def Obligations.DecodeOfEncodedScript : Prop :=
  ∀ (r : Rom) (rs : List Record), (∀ x ∈ rs, wfRecord r x = true) →
    (encodeScript r rs).1 = .ok ∧ decodeStream r (encodeScript r rs).2 = (.ok, rs.map (norm r))

/-- Header rejection (41_frame_decoder R159, which the spec derives from R155): `DECODE` answers `ERR_HEADER` exactly for
a stream shorter than 3 bytes or not beginning with the tag, and a stream that does not answer `OK` has no records. -/
def Obligations.HeaderRejection : Prop :=
  ∀ (r : Rom) (bytes : List Byte),
    ((decodeStream r bytes).1 = .errHeader ↔ bytes.length < 3 ∨ bytes.take 3 ≠ [0x4E, 0x53, 0x4C]) ∧
    ((decodeStream r bytes).1 ≠ .ok → (decodeStream r bytes).2 = [])
end

