-- ==== Sys2Proof/Laws/Memory.lean ====
section
/-! SUPPORT. The byte spaces: a read after a write, and the canonical form that every operation keeps. -/

namespace Sys2Proof.Machine

theorem read_write_same (m : Memory) (a : Nat) (b : Byte) : Memory.read (Memory.write m a b) a = some b := by
  induction m with
  | nil => simp [Memory.write, Memory.read]
  | cons cell rest ih =>
    obtain ⟨k, c⟩ := cell
    rcases lt_trichotomy a k with h | h | h
    · simp [Memory.write, Memory.read, h]
    · simp [Memory.write, Memory.read, h]
    · have hk : ¬ k = a := by omega
      simp [Memory.write, Memory.read, hk, ih, Nat.not_lt.mpr (le_of_lt h), Ne.symm hk]

theorem read_write_other (m : Memory) (a c : Nat) (b : Byte) (h : c ≠ a) :
    Memory.read (Memory.write m a b) c = Memory.read m c := by
  induction m with
  | nil => simp [Memory.write, Memory.read, Ne.symm h]
  | cons cell rest ih =>
    obtain ⟨k, v⟩ := cell
    rcases lt_trichotomy a k with hk | hk | hk
    · simp [Memory.write, Memory.read, hk, Ne.symm h]
    · subst hk
      simp [Memory.write, Memory.read, Ne.symm h]
    · have h1 : ¬ a < k := by omega
      have h2 : ¬ a = k := by omega
      simp [Memory.write, Memory.read, h1, h2, ih]

/-- Writing bytes at consecutive offsets: each lands at its offset, every other offset reads as before. -/
theorem read_writes (bs : List Byte) (m : Memory) (a c : Nat) :
    Memory.read (Memory.writes m a bs) c =
      if a ≤ c ∧ c < a + bs.length then bs[c - a]? else Memory.read m c := by
  induction bs generalizing m a with
  | nil =>
    have h : ¬ (a ≤ c ∧ c < a + ([] : List Byte).length) := by simp
    rw [if_neg h, Memory.writes]
  | cons b rest ih =>
    rw [Memory.writes, ih]
    by_cases hlater : a + 1 ≤ c ∧ c < a + 1 + rest.length
    · have hin : a ≤ c ∧ c < a + (b :: rest).length := by simp; omega
      rw [if_pos hlater, if_pos hin]
      obtain ⟨n, rfl⟩ : ∃ n, c = a + 1 + n := ⟨c - (a + 1), by omega⟩
      simp [show a + 1 + n - a = n + 1 by omega]
    · rw [if_neg hlater]
      by_cases hc : c = a
      · subst hc
        simp [read_write_same]
      · have hout : ¬ (a ≤ c ∧ c < a + (b :: rest).length) := by simp; omega
        rw [if_neg hout, read_write_other _ _ _ _ hc]

/-- The offsets after a write are the offsets before it and the one written. -/
theorem mem_write_offset (m : Memory) (a : Nat) (b : Byte) (k : Nat) :
    k ∈ (Memory.write m a b).map Prod.fst ↔ k = a ∨ k ∈ m.map Prod.fst := by
  induction m with
  | nil => simp [Memory.write]
  | cons cell rest ih =>
    obtain ⟨c, v⟩ := cell
    unfold Memory.write
    split_ifs with h1 h2
    · simp
    · subst h2; simp
    · rw [List.map_cons, List.mem_cons, ih]; simp; tauto

theorem write_wf (m : Memory) (a : Nat) (b : Byte) (h : Memory.wf m) : Memory.wf (Memory.write m a b) := by
  induction m with
  | nil => simp [Memory.write, Memory.wf]
  | cons cell rest ih =>
    obtain ⟨k, v⟩ := cell
    have hk : ∀ x ∈ rest.map Prod.fst, k < x := (List.pairwise_cons.mp h).1
    have hrest : Memory.wf rest := (List.pairwise_cons.mp h).2
    unfold Memory.write
    split_ifs with h1 h2
    · refine List.pairwise_cons.mpr ⟨fun x hx => ?_, h⟩
      rcases List.mem_cons.mp hx with rfl | hx
      · exact h1
      · exact lt_trans h1 (hk x hx)
    · subst h2; exact List.pairwise_cons.mpr ⟨hk, hrest⟩
    · refine List.pairwise_cons.mpr ⟨fun x hx => ?_, ih hrest⟩
      rcases (mem_write_offset rest a b x).mp hx with rfl | hx
      · change k < x; omega
      · exact hk x hx

theorem writes_wf (bs : List Byte) (m : Memory) (a : Nat) (h : Memory.wf m) : Memory.wf (Memory.writes m a bs) := by
  induction bs generalizing m a with
  | nil => exact h
  | cons b rest ih => exact ih _ _ (write_wf m a b h)

/-- A write past every offset appends. -/
theorem write_append (m : Memory) (a : Nat) (b : Byte) (h : ∀ k ∈ m.map Prod.fst, k < a) :
    Memory.write m a b = m ++ [(a, b)] := by
  induction m with
  | nil => rfl
  | cons cell rest ih =>
    obtain ⟨k, v⟩ := cell
    have hk : k < a := h k (by simp)
    have h1 : ¬ a < k := by omega
    have h2 : ¬ a = k := by omega
    rw [Memory.write, if_neg h1, if_neg h2, ih (fun x hx => h x (by simp at hx ⊢; tauto))]
    rfl

/-- A byte space with the offsets below `n` that gets the byte at `n` has the offsets below `n + 1`. -/
theorem write_range (m : Memory) (n : Nat) (b : Byte) (h : m.map Prod.fst = List.range n) :
    (Memory.write m n b).map Prod.fst = List.range (n + 1) := by
  rw [write_append m n b (fun k hk => by rw [h] at hk; exact List.mem_range.mp hk), List.map_append, h,
    List.range_succ]
  rfl

theorem writes_range (bs : List Byte) (m : Memory) (n : Nat) (h : m.map Prod.fst = List.range n) :
    (Memory.writes m n bs).map Prod.fst = List.range (n + bs.length) := by
  induction bs generalizing m n with
  | nil => simpa [Memory.writes] using h
  | cons b rest ih =>
    rw [Memory.writes, ih _ _ (write_range m n b h), List.length_cons]
    congr 1; omega

/-- Consecutive offsets from 0 are in canonical form. -/
theorem wf_of_range (m : Memory) (n : Nat) (h : m.map Prod.fst = List.range n) : Memory.wf m := by
  unfold Memory.wf
  rw [h]
  exact List.pairwise_lt_range

theorem reset_sIn_wf : Memory.wf State.reset.sIn := List.Pairwise.nil

theorem reset_sOut_wf : Memory.wf State.reset.sOut := List.Pairwise.nil

end Sys2Proof.Machine
end

