-- ==== Sys2Proof/Laws/State.lean ====
section
/-! SUPPORT. What each shared operation leaves in each field of the state: one lemma per field per operation, so that no
later proof unfolds a record update. -/

namespace Sys2Proof.Machine

/-! ### consume -/

@[simp] theorem consume_rom (s : State) : (consume s).rom = s.rom := rfl
@[simp] theorem consume_d (s : State) : (consume s).d = s.d := rfl
@[simp] theorem consume_e (s : State) : (consume s).e = s.e := rfl
@[simp] theorem consume_sIn (s : State) : (consume s).sIn = s.sIn := rfl
@[simp] theorem consume_sOut (s : State) : (consume s).sOut = s.sOut := rfl
@[simp] theorem consume_input (s : State) : (consume s).input = s.input.tail := rfl
@[simp] theorem consume_dOut (s : State) : (consume s).dOut = s.dOut := rfl
@[simp] theorem consume_eOut (s : State) : (consume s).eOut = s.eOut := rfl

/-! ### emitD -/

@[simp] theorem emitD_rom (evs : List DuOut) (s : State) : (emitD evs s).rom = s.rom := rfl
@[simp] theorem emitD_d (evs : List DuOut) (s : State) : (emitD evs s).d = s.d := rfl
@[simp] theorem emitD_e (evs : List DuOut) (s : State) : (emitD evs s).e = s.e := rfl
@[simp] theorem emitD_sIn (evs : List DuOut) (s : State) : (emitD evs s).sIn = s.sIn := rfl
@[simp] theorem emitD_sOut (evs : List DuOut) (s : State) : (emitD evs s).sOut = s.sOut := rfl
@[simp] theorem emitD_input (evs : List DuOut) (s : State) : (emitD evs s).input = s.input := rfl
@[simp] theorem emitD_dOut (evs : List DuOut) (s : State) : (emitD evs s).dOut = s.dOut ++ evs := rfl
@[simp] theorem emitD_eOut (evs : List DuOut) (s : State) : (emitD evs s).eOut = s.eOut := rfl

/-! ### emitE -/

@[simp] theorem emitE_rom (evs : List EuOut) (s : State) : (emitE evs s).rom = s.rom := rfl
@[simp] theorem emitE_d (evs : List EuOut) (s : State) : (emitE evs s).d = s.d := rfl
@[simp] theorem emitE_e (evs : List EuOut) (s : State) : (emitE evs s).e = s.e := rfl
@[simp] theorem emitE_sIn (evs : List EuOut) (s : State) : (emitE evs s).sIn = s.sIn := rfl
@[simp] theorem emitE_sOut (evs : List EuOut) (s : State) : (emitE evs s).sOut = s.sOut := rfl
@[simp] theorem emitE_input (evs : List EuOut) (s : State) : (emitE evs s).input = s.input := rfl
@[simp] theorem emitE_dOut (evs : List EuOut) (s : State) : (emitE evs s).dOut = s.dOut := rfl
@[simp] theorem emitE_eOut (evs : List EuOut) (s : State) : (emitE evs s).eOut = s.eOut ++ evs := rfl

/-! ### emitBytes -/

@[simp] theorem emitBytes_rom (bs : List Byte) (s : State) : (emitBytes bs s).rom = s.rom := rfl
@[simp] theorem emitBytes_d (bs : List Byte) (s : State) : (emitBytes bs s).d = s.d := rfl
@[simp] theorem emitBytes_e (bs : List Byte) (s : State) : (emitBytes bs s).e = { s.e with bytecount := s.e.bytecount + BitVec.ofNat 32 bs.length } := rfl
@[simp] theorem emitBytes_sIn (bs : List Byte) (s : State) : (emitBytes bs s).sIn = s.sIn := rfl
@[simp] theorem emitBytes_sOut (bs : List Byte) (s : State) : (emitBytes bs s).sOut = Memory.writes s.sOut s.e.bytecount.toNat bs := rfl
@[simp] theorem emitBytes_input (bs : List Byte) (s : State) : (emitBytes bs s).input = s.input := rfl
@[simp] theorem emitBytes_dOut (bs : List Byte) (s : State) : (emitBytes bs s).dOut = s.dOut := rfl
@[simp] theorem emitBytes_eOut (bs : List Byte) (s : State) : (emitBytes bs s).eOut = s.eOut ++ bs.map .byte := rfl

/-! ### raiseD -/

@[simp] theorem raiseD_rom (code : Status) (s : State) : (raiseD code s).rom = s.rom := rfl
@[simp] theorem raiseD_d (code : Status) (s : State) : (raiseD code s).d = { s.d with err := statusCode code, state := .err } := rfl
@[simp] theorem raiseD_e (code : Status) (s : State) : (raiseD code s).e = s.e := rfl
@[simp] theorem raiseD_sIn (code : Status) (s : State) : (raiseD code s).sIn = s.sIn := rfl
@[simp] theorem raiseD_sOut (code : Status) (s : State) : (raiseD code s).sOut = s.sOut := rfl
@[simp] theorem raiseD_input (code : Status) (s : State) : (raiseD code s).input = s.input := rfl
@[simp] theorem raiseD_dOut (code : Status) (s : State) : (raiseD code s).dOut = s.dOut ++ [.finished code] := rfl
@[simp] theorem raiseD_eOut (code : Status) (s : State) : (raiseD code s).eOut = s.eOut := rfl

/-! ### raiseE -/

@[simp] theorem raiseE_rom (code : Status) (s : State) : (raiseE code s).rom = s.rom := rfl
@[simp] theorem raiseE_d (code : Status) (s : State) : (raiseE code s).d = s.d := rfl
@[simp] theorem raiseE_e (code : Status) (s : State) : (raiseE code s).e = { s.e with err := statusCode code, state := .err } := rfl
@[simp] theorem raiseE_sIn (code : Status) (s : State) : (raiseE code s).sIn = s.sIn := rfl
@[simp] theorem raiseE_sOut (code : Status) (s : State) : (raiseE code s).sOut = s.sOut := rfl
@[simp] theorem raiseE_input (code : Status) (s : State) : (raiseE code s).input = s.input := rfl
@[simp] theorem raiseE_dOut (code : Status) (s : State) : (raiseE code s).dOut = s.dOut := rfl
@[simp] theorem raiseE_eOut (code : Status) (s : State) : (raiseE code s).eOut = s.eOut ++ [.finished code] := rfl

/-! ### startDecoder -/

@[simp] theorem startDecoder_rom (s : State) : (startDecoder s).rom = s.rom := rfl
@[simp] theorem startDecoder_d (s : State) : (startDecoder s).d = { DecoderUnit.afterReset with state := .hdr } := rfl
@[simp] theorem startDecoder_e (s : State) : (startDecoder s).e = s.e := rfl
@[simp] theorem startDecoder_sIn (s : State) : (startDecoder s).sIn = [] := rfl
@[simp] theorem startDecoder_sOut (s : State) : (startDecoder s).sOut = s.sOut := rfl
@[simp] theorem startDecoder_input (s : State) : (startDecoder s).input = s.input := rfl
@[simp] theorem startDecoder_dOut (s : State) : (startDecoder s).dOut = s.dOut := rfl
@[simp] theorem startDecoder_eOut (s : State) : (startDecoder s).eOut = s.eOut := rfl

/-! ### startEncoder -/

@[simp] theorem startEncoder_rom (s : State) : (startEncoder s).rom = s.rom := rfl
@[simp] theorem startEncoder_d (s : State) : (startEncoder s).d = s.d := rfl
@[simp] theorem startEncoder_e (s : State) : (startEncoder s).e = { EncoderUnit.afterReset with state := .run, bytecount := 4 } := rfl
@[simp] theorem startEncoder_sIn (s : State) : (startEncoder s).sIn = s.sIn := rfl
@[simp] theorem startEncoder_sOut (s : State) : (startEncoder s).sOut = Memory.writes [] 0 header := rfl
@[simp] theorem startEncoder_input (s : State) : (startEncoder s).input = s.input := rfl
@[simp] theorem startEncoder_dOut (s : State) : (startEncoder s).dOut = s.dOut := rfl
@[simp] theorem startEncoder_eOut (s : State) : (startEncoder s).eOut = s.eOut ++ header.map .byte := rfl

/-! ### resetBlock -/

@[simp] theorem resetBlock_rom (s : State) : (resetBlock s).rom = s.rom := rfl
@[simp] theorem resetBlock_d (s : State) : (resetBlock s).d = .afterReset := rfl
@[simp] theorem resetBlock_e (s : State) : (resetBlock s).e = .afterReset := rfl
@[simp] theorem resetBlock_sIn (s : State) : (resetBlock s).sIn = [] := rfl
@[simp] theorem resetBlock_sOut (s : State) : (resetBlock s).sOut = [] := rfl
@[simp] theorem resetBlock_input (s : State) : (resetBlock s).input = s.input := rfl
@[simp] theorem resetBlock_dOut (s : State) : (resetBlock s).dOut = s.dOut := rfl
@[simp] theorem resetBlock_eOut (s : State) : (resetBlock s).eOut = s.eOut := rfl

/-! ### drainByte -/

@[simp] theorem drainByte_rom (b : Byte) (s : State) : (drainByte b s).rom = s.rom := rfl
@[simp] theorem drainByte_d (b : Byte) (s : State) : (drainByte b s).d = s.d := rfl
@[simp] theorem drainByte_e (b : Byte) (s : State) : (drainByte b s).e = s.e := rfl
@[simp] theorem drainByte_sIn (b : Byte) (s : State) : (drainByte b s).sIn = Memory.write s.sIn (received s) b := rfl
@[simp] theorem drainByte_sOut (b : Byte) (s : State) : (drainByte b s).sOut = s.sOut := rfl
@[simp] theorem drainByte_input (b : Byte) (s : State) : (drainByte b s).input = s.input.tail := rfl
@[simp] theorem drainByte_dOut (b : Byte) (s : State) : (drainByte b s).dOut = s.dOut := rfl
@[simp] theorem drainByte_eOut (b : Byte) (s : State) : (drainByte b s).eOut = s.eOut := rfl

/-! ### takeByte -/

@[simp] theorem takeByte_rom (b : Byte) (s : State) : (takeByte b s).rom = s.rom := rfl
@[simp] theorem takeByte_d (b : Byte) (s : State) : (takeByte b s).d = s.d := rfl
@[simp] theorem takeByte_e (b : Byte) (s : State) : (takeByte b s).e = s.e := rfl
@[simp] theorem takeByte_sIn (b : Byte) (s : State) : (takeByte b s).sIn = Memory.write s.sIn s.d.cursor.toNat b := rfl
@[simp] theorem takeByte_sOut (b : Byte) (s : State) : (takeByte b s).sOut = s.sOut := rfl
@[simp] theorem takeByte_input (b : Byte) (s : State) : (takeByte b s).input = s.input.tail := rfl
@[simp] theorem takeByte_dOut (b : Byte) (s : State) : (takeByte b s).dOut = s.dOut := rfl
@[simp] theorem takeByte_eOut (b : Byte) (s : State) : (takeByte b s).eOut = s.eOut := rfl

/-! ### collectByte -/

@[simp] theorem collectByte_rom (b : Byte) (s : State) : (collectByte b s).rom = s.rom := rfl
@[simp] theorem collectByte_d (b : Byte) (s : State) : (collectByte b s).d = { latchByte s.rom b s.d with state := if frameCompletes s b then .opc else .pay } := rfl
@[simp] theorem collectByte_e (b : Byte) (s : State) : (collectByte b s).e = s.e := rfl
@[simp] theorem collectByte_sIn (b : Byte) (s : State) : (collectByte b s).sIn = Memory.write s.sIn s.d.cursor.toNat b := rfl
@[simp] theorem collectByte_sOut (b : Byte) (s : State) : (collectByte b s).sOut = s.sOut := rfl
@[simp] theorem collectByte_input (b : Byte) (s : State) : (collectByte b s).input = s.input.tail := rfl
@[simp] theorem collectByte_dOut (b : Byte) (s : State) : (collectByte b s).dOut = s.dOut := rfl
@[simp] theorem collectByte_eOut (b : Byte) (s : State) : (collectByte b s).eOut = s.eOut := rfl

/-! ### emitRecord -/

@[simp] theorem emitRecord_rom (r : Record) (diags : List Diag) (s : State) : (emitRecord r diags s).rom = s.rom := rfl
@[simp] theorem emitRecord_d (r : Record) (diags : List Diag) (s : State) : (emitRecord r diags s).d = { s.d with reccount := s.d.reccount + 1 } := rfl
@[simp] theorem emitRecord_e (r : Record) (diags : List Diag) (s : State) : (emitRecord r diags s).e = s.e := rfl
@[simp] theorem emitRecord_sIn (r : Record) (diags : List Diag) (s : State) : (emitRecord r diags s).sIn = s.sIn := rfl
@[simp] theorem emitRecord_sOut (r : Record) (diags : List Diag) (s : State) : (emitRecord r diags s).sOut = s.sOut := rfl
@[simp] theorem emitRecord_input (r : Record) (diags : List Diag) (s : State) : (emitRecord r diags s).input = s.input := rfl
@[simp] theorem emitRecord_dOut (r : Record) (diags : List Diag) (s : State) : (emitRecord r diags s).dOut = s.dOut ++ .record r :: diags.map .diag := rfl
@[simp] theorem emitRecord_eOut (r : Record) (diags : List Diag) (s : State) : (emitRecord r diags s).eOut = s.eOut := rfl

/-! ### noteClamp -/

@[simp] theorem noteClamp_rom (s : State) (g : Diag) : (noteClamp s g).rom = s.rom := rfl
@[simp] theorem noteClamp_d (s : State) (g : Diag) : (noteClamp s g).d = s.d := rfl
@[simp] theorem noteClamp_e (s : State) (g : Diag) : (noteClamp s g).e = { s.e with clamped := true, clampcount := s.e.clampcount + 1 } := rfl
@[simp] theorem noteClamp_sIn (s : State) (g : Diag) : (noteClamp s g).sIn = s.sIn := rfl
@[simp] theorem noteClamp_sOut (s : State) (g : Diag) : (noteClamp s g).sOut = s.sOut := rfl
@[simp] theorem noteClamp_input (s : State) (g : Diag) : (noteClamp s g).input = s.input := rfl
@[simp] theorem noteClamp_dOut (s : State) (g : Diag) : (noteClamp s g).dOut = s.dOut := rfl
@[simp] theorem noteClamp_eOut (s : State) (g : Diag) : (noteClamp s g).eOut = s.eOut ++ [.diag g] := rfl

/-! ### finishDecode -/

@[simp] theorem finishDecode_rom (s : State) : (finishDecode s).rom = s.rom := rfl
@[simp] theorem finishDecode_d (s : State) : (finishDecode s).d = { s.d with state := .done } := rfl
@[simp] theorem finishDecode_e (s : State) : (finishDecode s).e = s.e := rfl
@[simp] theorem finishDecode_sIn (s : State) : (finishDecode s).sIn = s.sIn := rfl
@[simp] theorem finishDecode_sOut (s : State) : (finishDecode s).sOut = s.sOut := rfl
@[simp] theorem finishDecode_input (s : State) : (finishDecode s).input = s.input := rfl
@[simp] theorem finishDecode_dOut (s : State) : (finishDecode s).dOut = s.dOut ++ [.finished .ok] := rfl
@[simp] theorem finishDecode_eOut (s : State) : (finishDecode s).eOut = s.eOut := rfl

/-! ### noteClamps: by induction over the clamp events -/

@[simp] theorem noteClamps_rom (gs : List Diag) (s : State) : (noteClamps gs s).rom = s.rom := by
  induction gs generalizing s with
  | nil => rfl
  | cons g rest ih => exact ih (noteClamp s g)

@[simp] theorem noteClamps_d (gs : List Diag) (s : State) : (noteClamps gs s).d = s.d := by
  induction gs generalizing s with
  | nil => rfl
  | cons g rest ih => exact ih (noteClamp s g)

@[simp] theorem noteClamps_sIn (gs : List Diag) (s : State) : (noteClamps gs s).sIn = s.sIn := by
  induction gs generalizing s with
  | nil => rfl
  | cons g rest ih => exact ih (noteClamp s g)

@[simp] theorem noteClamps_sOut (gs : List Diag) (s : State) : (noteClamps gs s).sOut = s.sOut := by
  induction gs generalizing s with
  | nil => rfl
  | cons g rest ih => exact ih (noteClamp s g)

@[simp] theorem noteClamps_input (gs : List Diag) (s : State) : (noteClamps gs s).input = s.input := by
  induction gs generalizing s with
  | nil => rfl
  | cons g rest ih => exact ih (noteClamp s g)

@[simp] theorem noteClamps_dOut (gs : List Diag) (s : State) : (noteClamps gs s).dOut = s.dOut := by
  induction gs generalizing s with
  | nil => rfl
  | cons g rest ih => exact ih (noteClamp s g)

@[simp] theorem noteClamps_nil (s : State) : noteClamps [] s = s := rfl

@[simp] theorem noteClamps_cons (g : Diag) (gs : List Diag) (s : State) :
    noteClamps (g :: gs) s = noteClamps gs (noteClamp s g) := rfl

@[simp] theorem noteClamps_eOut (gs : List Diag) (s : State) :
    (noteClamps gs s).eOut = s.eOut ++ gs.map .diag := by
  induction gs generalizing s with
  | nil => simp
  | cons g rest ih => simp [ih]

@[simp] theorem noteClamps_e_state (gs : List Diag) (s : State) : (noteClamps gs s).e.state = s.e.state := by
  induction gs generalizing s with
  | nil => rfl
  | cons g rest ih => exact ih (noteClamp s g)

@[simp] theorem noteClamps_e_err (gs : List Diag) (s : State) : (noteClamps gs s).e.err = s.e.err := by
  induction gs generalizing s with
  | nil => rfl
  | cons g rest ih => exact ih (noteClamp s g)

@[simp] theorem noteClamps_e_bytecount (gs : List Diag) (s : State) :
    (noteClamps gs s).e.bytecount = s.e.bytecount := by
  induction gs generalizing s with
  | nil => rfl
  | cons g rest ih => exact ih (noteClamp s g)

@[simp] theorem noteClamps_e_reccount (gs : List Diag) (s : State) :
    (noteClamps gs s).e.reccount = s.e.reccount := by
  induction gs generalizing s with
  | nil => rfl
  | cons g rest ih => exact ih (noteClamp s g)

theorem noteClamps_e_clamped (gs : List Diag) (s : State) :
    (noteClamps gs s).e.clamped = (s.e.clamped || !gs.isEmpty) := by
  induction gs generalizing s with
  | nil => simp
  | cons g rest ih => simp [ih]

theorem noteClamps_e_clampcount (gs : List Diag) (s : State) :
    (noteClamps gs s).e.clampcount = s.e.clampcount + BitVec.ofNat 32 gs.length := by
  induction gs generalizing s with
  | nil => simp
  | cons g rest ih =>
    rw [noteClamps_cons, ih, noteClamp_e, List.length_cons]
    simp only [BitVec.ofNat_add]
    rw [BitVec.add_assoc, BitVec.add_comm (BitVec.ofNat 32 rest.length)]
    rfl

/-! ### The whole DU side and EU side of an instruction -/

@[simp] theorem finishFrame_rom (op : Byte) (body : Body) (last : Byte) (s : State) : (finishFrame op body last s).rom =
    s.rom := rfl

@[simp] theorem finishFrame_d (op : Byte) (body : Body) (last : Byte) (s : State) : (finishFrame op body last s).d =
    { (collectByte last s).d with reccount := (collectByte last s).d.reccount + 1 } := rfl

@[simp] theorem finishFrame_e (op : Byte) (body : Body) (last : Byte) (s : State) : (finishFrame op body last s).e =
    s.e := rfl

@[simp] theorem finishFrame_sIn (op : Byte) (body : Body) (last : Byte) (s : State) : (finishFrame op body last s).sIn =
    Memory.write s.sIn s.d.cursor.toNat last := rfl

@[simp] theorem finishFrame_sOut (op : Byte) (body : Body) (last : Byte) (s : State) : (finishFrame op body last s).sOut =
    s.sOut := rfl

@[simp] theorem finishFrame_input (op : Byte) (body : Body) (last : Byte) (s : State) : (finishFrame op body last s).input =
    s.input.tail := rfl

@[simp] theorem finishFrame_dOut (op : Byte) (body : Body) (last : Byte) (s : State) : (finishFrame op body last s).dOut =
    s.dOut ++ .record (reconBody op body) :: (reconDiags (collectByte last s).d.frameBase op body).map .diag := rfl

@[simp] theorem finishFrame_eOut (op : Byte) (body : Body) (last : Byte) (s : State) : (finishFrame op body last s).eOut =
    s.eOut := rfl

@[simp] theorem sendFrame_rom (bs : List Byte) (clamps : List Diag) (s : State) :
    (sendFrame bs clamps s).rom = s.rom := by
  simp [sendFrame]

@[simp] theorem sendFrame_d (bs : List Byte) (clamps : List Diag) (s : State) :
    (sendFrame bs clamps s).d = s.d := by
  simp [sendFrame]

@[simp] theorem sendFrame_sIn (bs : List Byte) (clamps : List Diag) (s : State) :
    (sendFrame bs clamps s).sIn = s.sIn := by
  simp [sendFrame]

@[simp] theorem sendFrame_dOut (bs : List Byte) (clamps : List Diag) (s : State) :
    (sendFrame bs clamps s).dOut = s.dOut := by
  simp [sendFrame]

@[simp] theorem sendFrame_input (bs : List Byte) (clamps : List Diag) (s : State) :
    (sendFrame bs clamps s).input = s.input.tail := by
  simp [sendFrame]

@[simp] theorem sendFrame_sOut (bs : List Byte) (clamps : List Diag) (s : State) :
    (sendFrame bs clamps s).sOut = Memory.writes s.sOut s.e.bytecount.toNat bs := by
  simp [sendFrame]

@[simp] theorem sendFrame_eOut (bs : List Byte) (clamps : List Diag) (s : State) :
    (sendFrame bs clamps s).eOut = s.eOut ++ bs.map .byte ++ clamps.map .diag := by
  simp [sendFrame]

end Sys2Proof.Machine
end

