-- ==== Sys2Proof/Laws/Ops.lean ====
section
/-! SUPPORT. What each shared operation can do, said once: the provers cite these instead of unfolding. -/

namespace Sys2Proof.Machine

/-- Every meaning is `runFrame` on the instruction's opcode byte and operands. -/
theorem exec_eq_runFrame (i : Instr) (s : State) : exec i s = runFrame (i.opcode s.rom) i.body s := by
  cases i <;> rfl

/-- A meaning on a byte that completes a frame is the DU side. -/
theorem runFrame_byte (op : Byte) (body : Body) (s : State) (last : Byte) (rest : List HostEvent)
    (hin : s.input = .byte last :: rest) (hc : frameCompletes s last = true) :
    runFrame op body s = decodeLast op body last s := by
  simp [runFrame, hin, hc]

/-- A meaning on a record in `E_RUN` is the EU side. -/
theorem runFrame_record (op : Byte) (body : Body) (s : State) (rec : Record) (rest : List HostEvent)
    (hin : s.input = .record rec :: rest) (hrun : s.e.state = .run) :
    runFrame op body s = encodeFrame op body s := by
  simp [runFrame, hin, hrun]

/-- Everything a meaning that answers a next state has done: completed a frame in the DU, sent one in the EU, or raised
`ERR_RECORD` for an unknown kind. -/
theorem runFrame_cases {op : Byte} {body : Body} {s t : State} (h : runFrame op body s = .next t) :
    (∃ last rest, s.input = .byte last :: rest ∧ frameCompletes s last = true ∧ streamFull s = false ∧
      t = finishFrame op body last s) ∨
    (∃ rec rest bs, s.input = .record rec :: rest ∧ s.e.state = .run ∧ kindsKnown body = true ∧
      encBody op body = some bs ∧ outputFits s bs.length = true ∧ t = sendFrame bs (bodyClamps body) s) ∨
    (∃ rec rest, s.input = .record rec :: rest ∧ s.e.state = .run ∧ kindsKnown body = false ∧
      t = raiseE .errRecord (consume s)) := by
  unfold runFrame at h
  split at h
  · next last rest hin =>
    split at h
    · next hc =>
      unfold decodeLast at h
      split at h
      · cases h
      · next hfull => cases h; exact .inl ⟨last, rest, hin, hc, by simpa using hfull, rfl⟩
    · cases h
  · next rec rest hin =>
    split at h
    · next hrun =>
      unfold encodeFrame at h
      split at h
      · next hk =>
        split at h
        · next bs hbs =>
          split at h
          · next hfit => cases h; exact .inr (.inl ⟨rec, rest, bs, hin, hrun, hk, hbs, hfit, rfl⟩)
          · cases h
        · cases h
      · next hk => cases h; exact .inr (.inr ⟨rec, rest, hin, hrun, by simpa using hk, rfl⟩)
    · cases h
  · cases h

/-- A step is an instruction's meaning or the handling of an event. -/
theorem step_cases {s t : State} (h : step s = .next t) :
    (∃ i, fetchInstr s = some i ∧ exec i s = .next t) ∨ (fetchInstr s = none ∧ handleEvent s = .next t) := by
  unfold step at h
  split at h
  · next i hi => exact .inl ⟨i, hi, h⟩
  · next hi => exact .inr ⟨hi, h⟩

/-- Where a step fetches an instruction, it runs its meaning. -/
theorem step_of_fetch {s : State} {i : Instr} (h : fetchInstr s = some i) : step s = exec i s := by
  simp [step, h]

/-- Where a step fetches none, it handles the event. -/
theorem step_of_no_fetch {s : State} (h : fetchInstr s = none) : step s = handleEvent s := by
  simp [step, h]

/-- Everything the handling of an event can answer as a next state. -/
theorem handleEvent_cases {s t : State} (h : handleEvent s = .next t) :
    (s.input = [] ∧ t = s) ∨
    (∃ rest, s.input = .startDecode :: rest ∧ (s.d.state = .idle ∨ s.d.state = .done ∨ s.d.state = .err) ∧
      t = startDecoder (consume s)) ∨
    (∃ b rest, s.input = .byte b :: rest ∧ s.d.state = .hdr ∧ streamFull s = false ∧ t = onHeaderByte b s) ∨
    (∃ b rest, s.input = .byte b :: rest ∧ (s.d.state = .opc ∨ s.d.state = .pay) ∧ streamFull s = false ∧
      t = collectByte b s) ∨
    (∃ ev rest, s.input = ev :: rest ∧
      (s.d.state = .err ∧ ev = .eos ∨ s.e.state = .err ∧ (ev = .endScript ∨ ∃ rec, ev = .record rec)) ∧
      t = consume s) ∨
    (∃ rest, s.input = .eos :: rest ∧ ((s.d.state = .hdr ∧ s.d.hdrIdx = 3) ∨ s.d.state = .opc) ∧
      t = finishDecode (consume s)) ∨
    (∃ rest, s.input = .eos :: rest ∧ s.d.state = .hdr ∧ s.d.hdrIdx ≠ 3 ∧ t = raiseD .errHeader (consume s)) ∨
    (∃ rest, s.input = .eos :: rest ∧ s.d.state = .pay ∧ t = raiseD .errTruncated (consume s)) ∨
    (∃ rest, s.input = .startEncode :: rest ∧ (s.e.state = .idle ∨ s.e.state = .done ∨ s.e.state = .err) ∧
      t = startEncoder (consume s)) ∨
    (∃ rec rest, s.input = .record rec :: rest ∧ s.e.state = .run ∧ t = raiseE .errRecord (consume s)) ∨
    (∃ rest, s.input = .endScript :: rest ∧ s.e.state = .run ∧
      t = emitE [.finished .ok] { consume s with e := { s.e with state := .done } }) ∨
    (∃ rest, s.input = .reset :: rest ∧ t = resetBlock (consume s)) ∨
    (∃ b rest, s.input = .byte b :: rest ∧ s.d.state = .err ∧ drainFull s = false ∧ t = drainByte b s) := by
  unfold handleEvent at h
  split at h
  · next hin => cases h; exact .inl ⟨hin, rfl⟩
  · next rest hin =>
    unfold onStartDecode at h
    split at h <;> next hd => cases h <;> exact .inr (.inl ⟨rest, hin, by simp [hd], rfl⟩)
  · next b rest hin =>
    unfold onByte at h
    split at h
    · next hd =>
      split at h
      · cases h
      · next hf => cases h; exact .inr (.inr (.inl ⟨b, rest, hin, hd, by simpa using hf, rfl⟩))
    · next hd =>
      split at h
      · cases h
      · next hf => cases h; exact .inr (.inr (.inr (.inl ⟨b, rest, hin, .inl hd, by simpa using hf, rfl⟩)))
    · next hd =>
      split at h
      · cases h
      · next hf => cases h; exact .inr (.inr (.inr (.inl ⟨b, rest, hin, .inr hd, by simpa using hf, rfl⟩)))
    · next hd =>
      split at h
      · cases h
      · next hf =>
        cases h
        exact .inr (.inr (.inr (.inr (.inr (.inr (.inr (.inr (.inr (.inr (.inr (.inr
          ⟨b, rest, hin, hd, by simpa using hf, rfl⟩)))))))))))
    · cases h
    · cases h
  · next rest hin =>
    unfold onEos at h
    split at h
    · next hd =>
      split_ifs at h with h3
      · cases h; exact .inr (.inr (.inr (.inr (.inr (.inl ⟨rest, hin, .inl ⟨hd, h3⟩, rfl⟩)))))
      · cases h; exact .inr (.inr (.inr (.inr (.inr (.inr (.inl ⟨rest, hin, hd, h3, rfl⟩))))))
    · next hd => cases h; exact .inr (.inr (.inr (.inr (.inr (.inl ⟨rest, hin, .inr hd, rfl⟩)))))
    · next hd => cases h; exact .inr (.inr (.inr (.inr (.inr (.inr (.inr (.inl ⟨rest, hin, hd, rfl⟩)))))))
    · next hd => cases h; exact .inr (.inr (.inr (.inr (.inl ⟨_, rest, hin, .inl ⟨hd, rfl⟩, rfl⟩))))
    · cases h
    · cases h
  · next rest hin =>
    unfold onStartEncode at h
    split at h <;> next he =>
      cases h <;> exact .inr (.inr (.inr (.inr (.inr (.inr (.inr (.inr (.inl ⟨rest, hin, by simp [he], rfl⟩))))))))
  · next rec rest hin =>
    unfold onRecord at h
    split at h
    · next he =>
      cases h
      exact .inr (.inr (.inr (.inr (.inr (.inr (.inr (.inr (.inr (.inl ⟨rec, rest, hin, he, rfl⟩)))))))))
    · next he => cases h; exact .inr (.inr (.inr (.inr (.inl ⟨_, rest, hin, .inr ⟨he, .inr ⟨rec, rfl⟩⟩, rfl⟩))))
    · cases h
    · cases h
  · next rest hin =>
    unfold onEndScript at h
    split at h
    · next he =>
      cases h
      exact .inr (.inr (.inr (.inr (.inr (.inr (.inr (.inr (.inr (.inr (.inl ⟨rest, hin, he, rfl⟩))))))))))
    · next he => cases h; exact .inr (.inr (.inr (.inr (.inl ⟨_, rest, hin, .inr ⟨he, .inl rfl⟩, rfl⟩))))
    · cases h
    · cases h
  · next rest hin =>
    cases h
    exact .inr (.inr (.inr (.inr (.inr (.inr (.inr (.inr (.inr (.inr (.inr (.inl ⟨rest, hin, rfl⟩)))))))))))

end Sys2Proof.Machine
end

