-- ==== Sys2Proof/Laws/Rom.lean ====
section
/-! SUPPORT. Small facts about the opcode set, the dispatch ROM and the fields of a frame. -/

namespace Sys2Proof

open Sys2Proof.Machine

@[simp] theorem ofByte_byte (u : UOp) : UOp.ofByte u.byte = some u := by cases u <;> decide

theorem byte_of_ofByte {op : Byte} {u : UOp} (h : UOp.ofByte op = some u) : op = u.byte := by
  have := List.find?_some h
  exact (by simpa using this : u.byte = op).symm

theorem byte_injective {u v : UOp} (h : u.byte = v.byte) : u = v := by
  have := congrArg UOp.ofByte h
  simpa using this

@[simp] theorem opKnown_byte (u : UOp) : opKnown u.byte = true := by cases u <;> decide

theorem byte_ne_assigned (u : UOp) : u.byte ≠ 0xA1 ∧ u.byte ≠ 0xC0 ∧ u.byte ≠ 0xC1 ∧ u.byte ≠ 0xFF := by
  cases u <;> decide

/-- The ROM's shape of a byte of `U` is its argument's (30_encoding R84). -/
@[simp] theorem shape_byte (r : Rom) (u : UOp) : r.shape u.byte = r.openShape u := by
  obtain ⟨h1, h2, h3, h4⟩ := byte_ne_assigned u
  rw [Rom.shape, if_neg h1, if_neg h2, if_neg h3, if_neg h4, ofByte_byte]

@[simp] theorem opcode_ofOpen (r : Rom) (u : UOp) (p : OpenForm) : (Instr.ofOpen u p).opcode r = u.byte := by
  cases u <;> rfl

@[simp] theorem body_ofOpen (u : UOp) (p : OpenForm) : (Instr.ofOpen u p).body = p.body := by cases u <;> rfl

@[simp] theorem rawUnknown_ofOpen (u : UOp) (p : OpenForm) : (Instr.ofOpen u p).rawUnknown = true := by
  cases u <;> rfl

@[simp] theorem formMatches_ofOpen (r : Rom) (u : UOp) (p : OpenForm) :
    (Instr.ofOpen u p).formMatches r = UOp.formMatches r u p := by cases u <;> rfl

theorem normalised_admissible (r : Rom) : r.normalised.Admissible := by
  unfold Rom.normalised Rom.Admissible
  by_cases h : r.opcClear = r.opcJump
  · by_cases h2 : r.opcJump = .a2
    · simp [h, h2]
    · simpa [h, h2] using Ne.symm h2
  · simp [h]

theorem normalised_of_admissible (r : Rom) (h : r.Admissible) : r.normalised = r := by
  simp [Rom.normalised, h]

/-- The ROM of the reset state is admissible, whatever the open arguments are. -/
theorem config_rom_admissible : Config.rom.Admissible := normalised_admissible _

/-- No bit of an operand payload is dropped: its field's scalar byte is the one it was read from. -/
@[simp] theorem scalarByte_fieldOf (k s : Byte) : Field.scalarByte (fieldOf k s) = s := by
  revert s; unfold fieldOf Field.scalarByte; dsimp only; decide

@[simp] theorem bytes_fieldOf (k s : Byte) : Field.bytes (fieldOf k s) = [k, s] := by
  simp only [Field.bytes, scalarByte_fieldOf]; rfl

theorem fieldOf_magFits (k s : Byte) : (fieldOf k s).magFits = true := by
  have key : ∀ s : Byte, (svd s).mag < 128 := by decide
  exact decide_eq_true (key s)

/-- A field that fits its frame is read back from its scalar byte. -/
theorem fieldOf_scalarByte (f : Field) (h : f.magFits = true) : fieldOf f.kind (Field.scalarByte f) = f := by
  obtain ⟨k, src, m⟩ := f
  have key : ∀ (m : Byte), m < 128 →
      svd (srcBit src ++ m.extractLsb' 0 7) = { src := src, mag := m } := by
    cases src <;> decide
  have := key m (by simpa [Field.magFits] using h)
  simp [fieldOf, Field.scalarByte, this]

/-- A shape has as many payload bytes as its length says (30_encoding R72, R82). -/
theorem bodyBytes_length (b : Body) : (bodyBytes b).length + 1 = b.shape.len := by cases b <;> rfl

end Sys2Proof
end

