-- ==== Sys2Proof/Laws/PerInstr.lean ====
section
/-! SUPPORT. Facts made per instruction: one lemma per constructor of `Instr`. -/

namespace Sys2Proof.Laws

open Sys2Proof Sys2Proof.Machine

/-- The frame of a well-formed instruction is as long as its opcode byte alone says (30_encoding R82, R86;
41_frame_decoder R141). -/
def EncodeLen.Statement (i : Instr) : Prop :=
  ∀ r : Rom, i.wellFormed r = true → (encode r i).length = r.len (i.opcode r)

/-- The frame of an unassigned opcode in the form its ROM argument gives. -/
theorem encode_length_open (u : UOp) (p : OpenForm) : EncodeLen.Statement (Instr.ofOpen u p) := by
  intro r h
  have hform : UOp.formMatches r u p = true := by
    simp only [Instr.wellFormed, Bool.and_eq_true, formMatches_ofOpen] at h
    exact h.2
  have hshape : p.body.shape = r.openShape u := by
    simp only [UOp.formMatches, Bool.and_eq_true, beq_iff_eq] at hform
    exact hform.2
  rw [encode, List.length_cons, body_ofOpen, opcode_ofOpen, bodyBytes_length, Rom.len, shape_byte, hshape]

theorem EncodeLen.set (a b : Field) : EncodeLen.Statement (.set a b) := fun _ _ => rfl

theorem EncodeLen.loopSet (a : Field) : EncodeLen.Statement (.loopSet a) := fun _ _ => rfl

theorem EncodeLen.loopEnd : EncodeLen.Statement .loopEnd := fun _ _ => rfl

theorem EncodeLen.endOp : EncodeLen.Statement .endOp := fun _ _ => rfl

theorem EncodeLen.placeholder (raw : Byte) : EncodeLen.Statement (.placeholder raw) := by
  intro r h
  have hraw : opKnown raw = false := by
    simp only [Instr.wellFormed, Instr.rawUnknown, Bool.and_eq_true, Bool.not_eq_true'] at h
    exact h.1.2
  have hlen : ∀ raw : Byte, opKnown raw = false →
      raw ≠ 0xA1 ∧ raw ≠ 0xC0 ∧ raw ≠ 0xC1 ∧ raw ≠ 0xFF ∧ UOp.ofByte raw = none := by decide
  obtain ⟨h1, h2, h3, h4, h5⟩ := hlen raw hraw
  rw [encode, List.length_cons, Instr.body, bodyBytes_length, Instr.opcode, Rom.len, Rom.shape, if_neg h1, if_neg h2,
    if_neg h3, if_neg h4, h5, Body.shape]

theorem EncodeLen.opA2 (p : OpenForm) : EncodeLen.Statement (.opA2 p) := encode_length_open .a2 p

theorem EncodeLen.opA3 (p : OpenForm) : EncodeLen.Statement (.opA3 p) := encode_length_open .a3 p

theorem EncodeLen.opA4 (p : OpenForm) : EncodeLen.Statement (.opA4 p) := encode_length_open .a4 p

theorem EncodeLen.opA5 (p : OpenForm) : EncodeLen.Statement (.opA5 p) := encode_length_open .a5 p

theorem EncodeLen.opB0 (p : OpenForm) : EncodeLen.Statement (.opB0 p) := encode_length_open .b0 p

theorem EncodeLen.opB1 (p : OpenForm) : EncodeLen.Statement (.opB1 p) := encode_length_open .b1 p

theorem EncodeLen.opB2 (p : OpenForm) : EncodeLen.Statement (.opB2 p) := encode_length_open .b2 p

theorem EncodeLen.opB3 (p : OpenForm) : EncodeLen.Statement (.opB3 p) := encode_length_open .b3 p

theorem EncodeLen.opB4 (p : OpenForm) : EncodeLen.Statement (.opB4 p) := encode_length_open .b4 p

theorem EncodeLen.opB5 (p : OpenForm) : EncodeLen.Statement (.opB5 p) := encode_length_open .b5 p

theorem EncodeLen.opB6 (p : OpenForm) : EncodeLen.Statement (.opB6 p) := encode_length_open .b6 p

theorem EncodeLen.opC2 (p : OpenForm) : EncodeLen.Statement (.opC2 p) := encode_length_open .c2 p

theorem EncodeLen.opD0 (p : OpenForm) : EncodeLen.Statement (.opD0 p) := encode_length_open .d0 p

theorem EncodeLen.opD1 (p : OpenForm) : EncodeLen.Statement (.opD1 p) := encode_length_open .d1 p

theorem EncodeLen.opD2 (p : OpenForm) : EncodeLen.Statement (.opD2 p) := encode_length_open .d2 p

theorem EncodeLen.opD3 (p : OpenForm) : EncodeLen.Statement (.opD3 p) := encode_length_open .d3 p

theorem EncodeLen.opD4 (p : OpenForm) : EncodeLen.Statement (.opD4 p) := encode_length_open .d4 p

theorem EncodeLen.opD5 (p : OpenForm) : EncodeLen.Statement (.opD5 p) := encode_length_open .d5 p

theorem EncodeLen.opD6 (p : OpenForm) : EncodeLen.Statement (.opD6 p) := encode_length_open .d6 p

theorem EncodeLen.jump (v : Wide) : EncodeLen.Statement (.jump v) := by
  intro r _
  rw [encode, List.length_cons, Instr.body, bodyBytes_length, Instr.opcode, Rom.len, shape_byte, Rom.openShape,
    if_pos rfl, Body.shape]

theorem EncodeLen.clearTrack : EncodeLen.Statement .clearTrack := by
  intro r h
  have hne : r.opcClear ≠ r.opcJump := by
    simp only [Instr.wellFormed, Instr.formMatches, Bool.and_eq_true, decide_eq_true_eq] at h
    exact h.2
  rw [encode, List.length_cons, Instr.body, bodyBytes_length, Instr.opcode, Rom.len, shape_byte, Rom.openShape,
    if_neg hne, if_pos rfl, Body.shape]

end Sys2Proof.Laws
end

