-- ==== Sys2Proof/Tests/Slice0.lean ====
section
/-! SUPPORT. Own tests. Expected values are the spec's worked examples and vectors (95_test_vectors, cited by section),
or written out by hand from the encodings of 30_encoding. The witnesses show, for every statement with hypotheses, a
concrete state and operands that meet them. -/

namespace Sys2Proof.Tests

open Sys2Proof Sys2Proof.Machine

/-! ### ROM arguments and small states -/

/-- A ROM for the tests: `OPC_JUMP` = 0xC2, clear-track = 0xD0, shape `T` at 0xA2, 0xA3, 0xB0, 0xB3. -/
def tRom : Rom := { opcJump := .c2, opcClear := .d0, twoOps := [.a2, .a3, .b0, .b3] }

/-- A second one: `OPC_JUMP` = 0xB0, clear-track = 0xA5, shape `T` at 0xC2. -/
def uRom : Rom := { opcJump := .b0, opcClear := .a5, twoOps := [.c2] }

/-- The DU with a frame delivered up to its last byte, which is at the head of the input. -/
def atFrame (frame : List Byte) : State := deliverFrame tRom frame (State.resetWith tRom)

/-- The EU in `E_RUN` with a record at the head of the input and `n` bytes already written. -/
def atRecord (n : Count) (rec : Record) : State :=
  { State.resetWith tRom with
    e := { EncoderUnit.afterReset with state := .run, bytecount := n }, input := [.record rec] }

/-- The DU in a given state with one event waiting. -/
def atDu (st : DState) (ev : HostEvent) : State :=
  { State.resetWith tRom with d := { DecoderUnit.afterReset with state := st }, input := [ev] }

/-- The EU in a given state with one event waiting. -/
def atEu (st : EState) (ev : HostEvent) : State :=
  { State.resetWith tRom with e := { EncoderUnit.afterReset with state := st }, input := [ev] }

/-- The next state, if there is one. -/
def after : Host.Outcome State Fault Refusal → Option State
  | .next t => some t
  | .fault _ => none
  | .refused _ => none

/-- The refusal, if there is one. -/
def refusal : Host.Outcome State Fault Refusal → Option Refusal
  | .next _ => none
  | .fault _ => none
  | .refused x => some x

def num (k : Kind) (n : Byte) : Operand := { kind := k, sc := { src := .num, mag := n } }
def buf (k : Kind) (n : Byte) : Operand := { kind := k, sc := { src := .buf, mag := n } }
def fnum (k n : Byte) : Field := { kind := k, src := .num, mag := n }
def fbuf (k n : Byte) : Field := { kind := k, src := .buf, mag := n }
def rec0 (op : Byte) : Record := { op := op, a := zeroOperand, b := zeroOperand, w := 0 }
def rec1 (op : Byte) (a : Operand) : Record := { op := op, a := a, b := zeroOperand, w := 0 }
def rec2 (op : Byte) (a b : Operand) : Record := { op := op, a := a, b := b, w := 0 }

/-- The header of the vectors, `H`. -/
def H : List Byte := [0x4E, 0x53, 0x4C, 0x01]

/-- What the DU emits for a frame, as the first of its stream. -/
def duOut (frame : List Byte) : Option (List DuOut) := (after (step (atFrame frame))).map State.dOut

/-- What the EU emits for a record. -/
def euOut (rec : Record) : Option (List EuOut) := (after (step (atRecord 4 rec))).map State.eOut

/-! ### Well-formedness: one ill-formed term for each check -/

theorem test_wellFormed_accepts : (Instr.set (fnum 0x02 127) (fbuf 0xFF 127)).wellFormed tRom = true := by decide
theorem test_magsFit_refuses : (Instr.loopSet (fnum 0x00 128)).wellFormed tRom = false := by decide
theorem test_magsFit_refuses_second : (Instr.set (fnum 0x00 0) (fnum 0x00 128)).wellFormed tRom = false := by decide
theorem test_rawUnknown_refuses : (Instr.placeholder 0xFF).wellFormed tRom = false := by decide
theorem test_formMatches_refuses_form : (Instr.opA2 .zero).wellFormed tRom = false := by decide
theorem test_formMatches_refuses_jump_byte : (Instr.opC2 .zero).wellFormed tRom = false := by decide
theorem test_formMatches_refuses_clear_byte : (Instr.opD0 .zero).wellFormed tRom = false := by decide
theorem test_formMatches_refuses_clear_track :
    Instr.clearTrack.wellFormed { opcJump := .a2, opcClear := .a2, twoOps := [] } = false := by decide

/-! ### Decoding: every constructor's word, bit by bit from 30_encoding R73 to R76 and the opcode table -/

theorem test_decode_set :
    decode tRom [0b10100001, 0b00000010, 0b10000001, 0b00000111, 0b00010000] = .ok (.set (fbuf 0x02 1) (fnum 0x07 16), []) := rfl
theorem test_decode_loopSet :
    decode tRom [0b11000000, 0b00000000, 0b00100000] = .ok (.loopSet (fnum 0x00 32), []) := rfl
theorem test_decode_loopEnd : decode tRom [0b11000001, 0x77] = .ok (.loopEnd, [0x77]) := rfl
theorem test_decode_endOp : decode tRom [0b11111111] = .ok (.endOp, []) := rfl
theorem test_decode_placeholder : decode tRom [0b01000010, 0x77] = .ok (.placeholder 0x42, [0x77]) := rfl
theorem test_decode_opA2 :
    decode tRom [0b10100010, 0b00000010, 0b10000001, 0b00000111, 0b00010000] = .ok (.opA2 (.two (fbuf 0x02 1) (fnum 0x07 16)), []) := rfl
theorem test_decode_opA3 :
    decode tRom [0b10100011, 0b00000010, 0b10000001, 0b00000111, 0b00010000] = .ok (.opA3 (.two (fbuf 0x02 1) (fnum 0x07 16)), []) := rfl
theorem test_decode_opA4 : decode tRom [0b10100100] = .ok (.opA4 .zero, []) := rfl
theorem test_decode_opA5 : decode tRom [0b10100101] = .ok (.opA5 .zero, []) := rfl
theorem test_decode_opB0 :
    decode tRom [0b10110000, 0b00000010, 0b10000001, 0b00000111, 0b00010000] = .ok (.opB0 (.two (fbuf 0x02 1) (fnum 0x07 16)), []) := rfl
theorem test_decode_opB1 : decode tRom [0b10110001] = .ok (.opB1 .zero, []) := rfl
theorem test_decode_opB2 : decode tRom [0b10110010] = .ok (.opB2 .zero, []) := rfl
theorem test_decode_opB3 :
    decode tRom [0b10110011, 0b00000010, 0b10000001, 0b00000111, 0b00010000] = .ok (.opB3 (.two (fbuf 0x02 1) (fnum 0x07 16)), []) := rfl
theorem test_decode_opB4 : decode tRom [0b10110100] = .ok (.opB4 .zero, []) := rfl
theorem test_decode_opB5 : decode tRom [0b10110101] = .ok (.opB5 .zero, []) := rfl
theorem test_decode_opB6 : decode tRom [0b10110110] = .ok (.opB6 .zero, []) := rfl
theorem test_decode_opC2 :
    decode uRom [0b11000010, 0b00000010, 0b10000001, 0b00000111, 0b00010000] = .ok (.opC2 (.two (fbuf 0x02 1) (fnum 0x07 16)), []) := rfl
theorem test_decode_opD0 : decode uRom [0b11010000] = .ok (.opD0 .zero, []) := rfl
theorem test_decode_opD1 : decode tRom [0b11010001] = .ok (.opD1 .zero, []) := rfl
theorem test_decode_opD2 : decode tRom [0b11010010] = .ok (.opD2 .zero, []) := rfl
theorem test_decode_opD3 : decode tRom [0b11010011] = .ok (.opD3 .zero, []) := rfl
theorem test_decode_opD4 : decode tRom [0b11010100] = .ok (.opD4 .zero, []) := rfl
theorem test_decode_opD5 : decode tRom [0b11010101] = .ok (.opD5 .zero, []) := rfl
theorem test_decode_opD6 : decode tRom [0b11010110] = .ok (.opD6 .zero, []) := rfl
theorem test_decode_jump :
    decode tRom [0b11000010, 0b00010010, 0b00110100] = .ok (.jump 0x1234, []) := rfl
theorem test_decode_clearTrack : decode tRom [0b11010000] = .ok (.clearTrack, []) := rfl

/-- An unknown kind byte and all eight bits of its scalar are kept (30_encoding R89: garbage is a frame). -/
theorem test_decode_keeps_garbage : decode tRom [0xC0, 0xFE, 0xFF] = .ok (.loopSet (fbuf 0xFE 127), []) := rfl
theorem test_decode_truncated : decode tRom [0xA1, 0x02, 0x00, 0x00] = .error .truncated := rfl
theorem test_decode_empty : decode tRom [] = .error .noOpcode := rfl

/-! ### Encoding -/

theorem test_encode_set :
    encode tRom (.set (fnum 0x02 0) (fnum 0x00 36)) = [0xA1, 0x02, 0x00, 0x00, 0x24] := rfl
theorem test_encode_loopSet : encode tRom (.loopSet (fbuf 0x0A 100)) = [0xC0, 0x0A, 0xE4] := rfl
theorem test_encode_jump : encode tRom (.jump 0x1234) = [0xC2, 0x12, 0x34] := rfl
theorem test_encode_clearTrack : encode tRom .clearTrack = [0xD0] := rfl
theorem test_encode_open : encode tRom (.opB0 (.two (fnum 0x02 5) (fnum 0x00 16))) = [0xB0, 0x02, 0x05, 0x00, 0x10] :=
  rfl
theorem test_encode_placeholder : encode tRom (.placeholder 0x42) = [0x42] := rfl

/-! ### The opcode table's words, numbered as the table numbers them -/

theorem test_table_word_set : decodeTableWord 40 0x24000002A1 = some (.set (fnum 0x02 0) (fnum 0x00 36)) := rfl
theorem test_table_word_short : decodeTableWord 8 0xA1 = some (.set (fnum 0x00 0) (fnum 0x00 0)) := rfl
theorem test_table_word_open : decodeTableWord 8 0xD5 = some (.opD5 (.two (fnum 0x00 0) (fnum 0x00 0))) := rfl
theorem test_first_step_from_reset :
    step (State.reset.withFetchWord 40 0x24000002A1) =
      exec (.set (fnum 0x02 0) (fnum 0x00 36)) (State.reset.withFetchWord 40 0x24000002A1) := rfl
theorem test_first_step_from_reset_completes :
    (after (step (State.reset.withFetchWord 8 0xC1))).map State.dOut = some [.record (rec0 0xC1)] := rfl

/-! ### The operand datapath (95_test_vectors 2.1 to 2.7) -/

theorem test_svd : [0x00, 0x24, 0x7F, 0x80, 0x81, 0xFF].map svd =
    [⟨.num, 0⟩, ⟨.num, 36⟩, ⟨.num, 127⟩, ⟨.buf, 0⟩, ⟨.buf, 1⟩, ⟨.buf, 127⟩] := by decide
theorem test_sve : [⟨.num, 0⟩, ⟨.num, 127⟩, ⟨.num, 128⟩, ⟨.num, 255⟩, ⟨.buf, 0⟩, ⟨.buf, 127⟩, ⟨.buf, 128⟩].map sve =
    [some 0x00, some 0x7F, some 0x7F, some 0x7F, some 0x80, some 0xFF, none] := by decide
theorem test_validate :
    [num 0 127, num 0 128, buf 1 200, num 2 31, num 2 32, buf 5 40, num 7 3, num 7 4, num 8 127, num 0xA 100,
      num 0xA 101].map validate =
    [(num 0 127, false), (num 0 127, true), (buf 1 127, true), (num 2 31, false), (num 2 31, true), (buf 5 31, true),
      (num 7 3, false), (num 7 3, true), (num 8 127, false), (num 0xA 100, false), (num 0xA 100, true)] := by decide
theorem test_ope :
    [num 0 36, num 0 255, buf 2 3, buf 2 31, num 3 255, num 4 5, num 6 40, buf 7 3, buf 8 127, num 9 64,
      buf 0xA 120].map ope =
    [some ([0x00, 0x24], false), some ([0x00, 0x7F], true), some ([0x02, 0x83], false), some ([0x02, 0x9F], false),
      some ([0x03, 0x1F], true), some ([0x04, 0x05], false), some ([0x06, 0x1F], true), some ([0x07, 0x83], false),
      some ([0x08, 0xFF], false), some ([0x09, 0x40], false), some ([0x0A, 0xE4], true)] := by decide
theorem test_opd :
    [opd 0x00 0x24, opd 0x02 0x81, opd 0x07 0x10, opd 0x0A 0xFF, opd 0x0B 0x12, opd 0xFF 0xFF] =
    [(num 0 36, false), (buf 2 1, false), (num 7 16, false), (buf 0xA 127, false), (num 0 0, true),
      (num 0 0, true)] := by decide
theorem test_wide : [0x0000, 0x00FF, 0xFF00, 0x1234, 0xFFFF].map wideEnc =
    [[0x00, 0x00], [0x00, 0xFF], [0xFF, 0x00], [0x12, 0x34], [0xFF, 0xFF]] := by decide
theorem test_wide_dec : wideDec 0x12 0x34 = 0x1234 := by decide
theorem test_len :
    [0x00, 0x01, 0x42, 0xA0, 0xA6, 0xAF, 0xB7, 0xBF, 0xC3, 0xCF, 0xD7, 0xFE, 0xA1, 0xC0, 0xC1, 0xFF, 0xC2].map tRom.len =
    [1, 1, 1, 1, 1, 1, 1, 1, 1, 1, 1, 1, 5, 3, 1, 1, 3] := by decide

/-! ### One step of each instruction in each unit -/

theorem test_set_decodes : duOut [0xA1, 0x02, 0x00, 0x00, 0x24] = some [.record (rec2 0xA1 (num 2 0) (num 0 36))] := by
  decide
theorem test_set_encodes :
    euOut (rec2 0xA1 (num 7 9) (buf 0xA 120)) =
      some [.byte 0xA1, .byte 0x07, .byte 0x03, .byte 0x0A, .byte 0xE4, .diag (.clamp 7 9 3),
        .diag (.clamp 0xA 120 100)] := by decide
theorem test_loopSet_decodes :
    duOut [0xC0, 0x0B, 0x55] = some [.record (rec1 0xC0 zeroOperand), .diag (.unknownKind 5 0x0B)] := by decide
theorem test_loopSet_encodes :
    euOut (rec1 0xC0 (num 0 200)) = some [.byte 0xC0, .byte 0x00, .byte 0x7F, .diag (.clamp 0 200 127)] := by decide
theorem test_loopEnd_decodes : duOut [0xC1] = some [.record (rec0 0xC1)] := by decide
theorem test_loopEnd_encodes :
    euOut { op := 0xC1, a := num 1 9, b := num 0xF 3, w := 0xBEEF } = some [.byte 0xC1] := by decide
theorem test_endOp_decodes : duOut [0xFF] = some [.record (rec0 0xFF)] := by decide
theorem test_endOp_encodes : euOut (rec0 0xFF) = some [.byte 0xFF] := by decide
theorem test_placeholder_decodes :
    duOut [0x42] = some [.record (rec0 0x00), .diag (.unknownOpcode 4 0x42)] ∧ duOut [0x00] = some [.record (rec0 0x00)] := by
  decide
theorem test_placeholder_encodes : euOut (rec0 0x00) = some [.byte 0x00] := by decide
theorem test_jump_decodes :
    duOut [0xC2, 0x12, 0x34] = some [.record { rec0 0xC2 with w := 0x1234 }] := by decide
theorem test_jump_encodes :
    euOut { rec0 0xC2 with w := 0x1234 } = some [.byte 0xC2, .byte 0x12, .byte 0x34] := by decide
theorem test_clearTrack_decodes : duOut [0xD0] = some [.record (rec0 0xD0)] := by decide
theorem test_clearTrack_encodes : euOut (rec0 0xD0) = some [.byte 0xD0] := by decide

/-- The open opcodes of shape `Z` under `tRom`: one byte, one record, no diagnostic. -/
theorem test_open_zero_decodes :
    [0xA4, 0xA5, 0xB1, 0xB2, 0xB4, 0xB5, 0xB6, 0xD1, 0xD2, 0xD3, 0xD4, 0xD5, 0xD6].map (fun op => duOut [op]) =
    [0xA4, 0xA5, 0xB1, 0xB2, 0xB4, 0xB5, 0xB6, 0xD1, 0xD2, 0xD3, 0xD4, 0xD5, 0xD6].map
      (fun op => some [.record (rec0 op)]) := by decide
/-- The open opcodes of shape `T` under `tRom`. -/
theorem test_open_two_decodes :
    [0xA2, 0xA3, 0xB0, 0xB3].map (fun op => duOut [op, 0x02, 0x05, 0x00, 0x10]) =
    [0xA2, 0xA3, 0xB0, 0xB3].map (fun op => some [.record (rec2 op (num 2 5) (num 0 16))]) := by decide
theorem test_open_two_encodes :
    [0xA2, 0xA3, 0xB0, 0xB3].map (fun op => euOut (rec2 op (buf 2 32) (num 0xA 1))) =
    [0xA2, 0xA3, 0xB0, 0xB3].map (fun op =>
      some [.byte op, .byte 0x02, .byte 0x9F, .byte 0x0A, .byte 0x01, .diag (.clamp 2 32 31)]) := by decide
theorem test_open_zero_encodes :
    [0xA4, 0xD6].map (fun op => euOut (rec0 op)) = [some [.byte 0xA4], some [.byte 0xD6]] := by decide
theorem test_unknown_opcode_record_raises : euOut (rec0 0x42) = some [.finished .errRecord] := by decide
theorem test_unknown_kind_record_raises : euOut (rec2 0xA1 (num 0xB 0) (num 0 1)) = some [.finished .errRecord] := by
  decide

/-! ### Streams (95_test_vectors 2.8, 2.9, 2.10; W1, W2, P3) and the observation words -/

theorem test_decode_streams :
    [[], [0x4E, 0x53], [0x4E, 0x58], [0x4E, 0x53, 0x4C], H, H ++ [0xFF, 0xFF], H ++ [0xA1, 0x02, 0x00, 0x00]].map
      (decodeStream tRom) =
    [(.errHeader, []), (.errHeader, []), (.errHeader, []), (.ok, []), (.ok, []), (.ok, [rec0 0xFF, rec0 0xFF]),
      (.errTruncated, [])] := by decide
theorem test_decode_W2 :
    decodeStream tRom (H ++ [0xC0, 0x00, 0x20, 0xC1]) = (.ok, [rec1 0xC0 (num 0 32), rec0 0xC1]) := by decide
theorem test_decode_rom_argument :
    decodeStream uRom (H ++ [0xB0, 0x02, 0x05, 0x00, 0x10]) =
      (.ok, [{ rec0 0xB0 with w := 0x0205 }, rec0 0x00, rec0 0x00]) := by decide
theorem test_encode_W1 :
    encodeScript tRom [rec2 0xA1 (num 2 0) (num 0 36), rec0 0xFF] =
      (.ok, [0x4E, 0x53, 0x4C, 0x01, 0xA1, 0x02, 0x00, 0x00, 0x24, 0xFF]) := by decide
theorem test_encode_P3 :
    encodeScript tRom [rec2 0xA1 (num 7 9) (buf 0xA 120), rec2 0xA1 (num 0 200) (num 6 40), rec0 0xFF] =
      (.ok, H ++ [0xA1, 0x07, 0x03, 0x0A, 0xE4, 0xA1, 0x00, 0x7F, 0x06, 0x1F, 0xFF]) := by decide
theorem test_encode_ill_formed : encodeScript tRom [rec0 0xFF, rec0 0x42] = (.errRecord, []) := by decide
theorem test_dstatus :
    dstatus { DecoderUnit.afterReset with state := .err, err := 2, versionValid := true, version := 7 } = 0x735 := by
  decide
theorem test_estatus : estatus { EncoderUnit.afterReset with state := .done, clamped := true } = 0x12 := by decide
/-- P3's end state (95_test_vectors, section 3). -/
theorem test_observation_words :
    let e := { EncoderUnit.afterReset with state := .done, bytecount := 15, reccount := 3, clamped := true, clampcount := 4 }
    let d := { DecoderUnit.afterReset with state := .done, cursor := 10, reccount := 2 }
    (ebytecount e, ereccount e, eclampcount e, estatus e, dcursor d, dreccount d) = (15, 3, 4, 0x12, 10, 2) := by decide
theorem test_not_admitted : refusal (step (atDu .idle (.byte 0x4E))) = some .eventNotAdmitted := by decide
/-- A mismatch at offset 0 and a byte drained after it: both are bytes of `S` (20_memory R51), the cursor stays. -/
theorem test_drained_byte_is_received :
    let s := { atDu .hdr (.byte 0x58) with input := [.byte 0x58, .byte 0x53] }
    ((after (step s)).bind (fun t => after (step t))).map (fun t => (t.sIn, t.d.cursor, t.dOut)) =
      some ([(0, 0x58), (1, 0x53)], 0, [.finished .errHeader]) := by decide
theorem test_start_encode_emits_header :
    (after (step (atEu .idle .startEncode))).map State.eOut = some (H.map .byte) := by decide

/-! ### The assembly language (30_encoding R94) -/

theorem test_parse_set :
    parseRecord tRom "Set(StepPitch(Number(0)), Constant(Number(36)))" = some (rec2 0xA1 (num 2 0) (num 0 36)) := by
  decide +kernel
theorem test_parse_jump : parseRecord tRom "Jump(0x1234)" = some { rec0 0xC2 with w := 0x1234 } := by decide +kernel
theorem test_parse_refuses : parseRecord tRom "Set(StepPitch(Number(256)), Constant(Number(36)))" = none := by
  decide +kernel
theorem test_text_loopSet : recordText tRom (rec1 0xC0 (buf 0xA 100)) = some "LoopSet(RandomNote(BufferIndex(100)))" := by
  decide +kernel

/-! ### Witnesses: encoding and the datapath -/

theorem witness_DecodeOfEncode : (Instr.set (fbuf 0xFF 127) (fnum 0x00 0)).wellFormed tRom = true := by decide
theorem witness_EncodeOfDecode :
    decode tRom [0xA1, 0xFF, 0xFF, 0x00, 0x80, 0x01] = .ok (.set (fbuf 0xFF 127) (fbuf 0x00 0), [0x01]) := rfl
theorem witness_FrameLengthFromOpcodeAlone :
    decode tRom [0xC0, 0x00, 0x20] = .ok (.loopSet (fnum 0x00 32), []) ∧ [0x00].length + 1 < tRom.len 0xC0 := by
  exact ⟨rfl, by decide⟩
theorem witness_UnknownOpcodesReconstructAsPlaceholder :
    [0x00, 0xA0, 0xA6, 0xAF, 0xB7, 0xBF, 0xC3, 0xCF, 0xD7, 0xFE].all (fun op => !opKnown op) = true ∧
    [0xA1, 0xA5, 0xB0, 0xB6, 0xC0, 0xC2, 0xD0, 0xD6, 0xFF].all opKnown = true := by decide
theorem witness_DispatchRomEntries : tRom.Admissible ∧ UOp.a2 ≠ tRom.opcJump := by decide
theorem witness_OpenBytesDecodeByRomArgument :
    UOp.c2 = tRom.opcJump ∧ (UOp.d0 ≠ tRom.opcJump ∧ UOp.d0 = tRom.opcClear) ∧
    (UOp.a4 ≠ tRom.opcJump ∧ UOp.a4 ≠ tRom.opcClear ∧ UOp.a4 ∉ tRom.twoOps) ∧
    (UOp.a2 ≠ tRom.opcJump ∧ UOp.a2 ≠ tRom.opcClear ∧ UOp.a2 ∈ tRom.twoOps) := by decide
theorem witness_ScalarRoundTrips : (127 : Byte) ≤ 127 := by decide
theorem witness_ScalarEncodeRule : (127 : Byte) ≤ 127 ∧ (127 : Byte) < 128 := by decide
theorem witness_ClampRule : (0 : Byte) ≤ 0 ∧ (3 : Byte) ≤ 255 := by decide
theorem witness_ValidateIdempotent : (num 2 31).sc.mag ≤ ceil (num 2 31).kind := by decide
theorem witness_ValidatedScalarNeverRefused : (buf 0xA 255).kind ≤ 0xA := by decide
theorem witness_OperandRoundTrip :
    ((0x0A : Byte) ≤ 0x0A ∧ (svd 0xE4).mag ≤ ceil ((0x0A : Byte).setWidth 4)) ∧
    ((0x0A : Byte) ≤ 0x0A ∧ ceil ((0x0A : Byte).setWidth 4) < (svd 0xE5).mag) ∧ (0x0A : Byte) < 0x0B := by decide

/-! ### Witnesses: the instructions -/

/-- A one-byte frame, in `D_OPC`. -/
theorem witness_ZeroOperandFramesDecode : LastByte (atFrame [0xC1]) 0xC1 [] ∧ opKnown 0xFE = false :=
  ⟨⟨rfl, by decide, by decide⟩, by decide⟩
theorem witness_LoopSetFrameDecodes :
    LastByte (atFrame [0xC0, 0x0A, 0x7F]) 0x7F [] ∧ (fnum 0x0A 127).magFits = true :=
  ⟨⟨rfl, by decide, by decide⟩, by decide⟩
theorem witness_JumpFrameDecodes : LastByte (atFrame [0xC2, 0x12, 0x34]) 0x34 [] := ⟨rfl, by decide, by decide⟩
theorem witness_SetFrameDecodes :
    LastByte (atFrame [0xA1, 0x0A, 0xFF, 0x0B, 0x7F]) 0x7F [] ∧ (fbuf 0x0A 127).magFits = true ∧
      (fnum 0x0B 127).magFits = true := ⟨⟨rfl, by decide, by decide⟩, by decide, by decide⟩
theorem witness_OpenOpcodeFramesDecode :
    LastByte (atFrame [0xB0, 0x02, 0x05, 0x00, 0x10]) 0x10 [] ∧ LastByte (atFrame [0xA4]) 0xA4 [] ∧
      (fnum 0x02 5).magFits = true ∧ (fnum 0x00 16).magFits = true :=
  ⟨⟨rfl, by decide, by decide⟩, ⟨rfl, by decide, by decide⟩, by decide, by decide⟩
theorem witness_ZeroOperandRecordsEncode :
    RecordArrives (atRecord 4294967294 (rec0 0xC1)) (rec0 0xC1) [] ∧
      (atRecord 4294967294 (rec0 0xC1)).e.bytecount.toNat + 1 ≤ maxStreamLen ∧ opKnown 0x00 = false :=
  ⟨⟨rfl, rfl⟩, by decide, by decide⟩
theorem witness_LoopSetRecordEncodes :
    RecordArrives (atRecord 4294967292 (rec1 0xC0 (num 0xA 255))) (rec1 0xC0 (num 0xA 255)) [] ∧
      (fnum 0x0A 255).kind ≤ 0x0A ∧
      (atRecord 4294967292 (rec1 0xC0 (num 0xA 255))).e.bytecount.toNat + 3 ≤ maxStreamLen :=
  ⟨⟨rfl, rfl⟩, by decide, by decide⟩
theorem witness_JumpRecordEncodes :
    RecordArrives (atRecord 4294967292 (rec0 0xC2)) (rec0 0xC2) [] ∧
      (atRecord 4294967292 (rec0 0xC2)).e.bytecount.toNat + 3 ≤ maxStreamLen := ⟨⟨rfl, rfl⟩, by decide⟩
theorem witness_SetRecordEncodes :
    RecordArrives (atRecord 4294967290 (rec2 0xA1 (num 0xA 1) (buf 0 2))) (rec2 0xA1 (num 0xA 1) (buf 0 2)) [] ∧
      (fnum 0x0A 1).kind ≤ 0x0A ∧ (fbuf 0x00 2).kind ≤ 0x0A ∧
      (atRecord 4294967290 (rec2 0xA1 (num 0xA 1) (buf 0 2))).e.bytecount.toNat + 5 ≤ maxStreamLen :=
  ⟨⟨rfl, rfl⟩, by decide, by decide, by decide⟩
theorem witness_OpenOpcodeRecordsEncode :
    RecordArrives (atRecord 4294967290 (rec0 0xB0)) (rec0 0xB0) [] ∧
      (atRecord 4294967290 (rec0 0xB0)).e.bytecount.toNat + 1 ≤ maxStreamLen ∧
      (atRecord 4294967290 (rec0 0xB0)).e.bytecount.toNat + 5 ≤ maxStreamLen ∧
      (fnum 0x0A 0).kind ≤ 0x0A ∧ (fnum 0x00 0).kind ≤ 0x0A :=
  ⟨⟨rfl, rfl⟩, by decide, by decide, by decide, by decide⟩
theorem witness_UnknownKindRaisesErrRecord :
    RecordArrives (atRecord 4 (rec1 0xC0 (num 0xB 0))) (rec1 0xC0 (num 0xB 0)) [] ∧ 0x0A < (fnum 0x0B 0).kind ∧
      ¬ 0x0A < (fnum 0x0A 0).kind := ⟨⟨rfl, rfl⟩, by decide, by decide⟩
theorem witness_StepRunsTheDecodedInstruction :
    (frameCompletes (atFrame [0xC0, 0x00, 0x20]) 0x20 = true ∧
      decode tRom (frameBytes (atFrame [0xC0, 0x00, 0x20]) 0x20) = .ok (.loopSet (fnum 0x00 32), [])) ∧
    (atRecord 4 (rec0 0xC1)).e.state = .run ∧ instrOfRecord tRom (rec0 0xC1) = some .loopEnd :=
  ⟨⟨by decide, rfl⟩, rfl, rfl⟩
theorem witness_DeliveredTableWordRuns : decodeTableWord 24 0x2000C0 = some (.loopSet (fnum 0x00 32)) := rfl
theorem witness_DecoderEmitsRecon :
    LastByte (atFrame [0xC0, 0x00, 0x20]) 0x20 [] ∧
      frameBytes (atFrame [0xC0, 0x00, 0x20]) 0x20 = [0xC0, 0x00, 0x20] := ⟨⟨rfl, by decide, by decide⟩, rfl⟩
theorem witness_EncoderEmitsEncrec :
    RecordArrives (atRecord 4294967290 (rec2 0xA1 (num 2 40) (num 0 200))) (rec2 0xA1 (num 2 40) (num 0 200)) [] ∧
      wfRecord tRom (rec2 0xA1 (num 2 40) (num 0 200)) = true ∧
      (atRecord 4294967290 (rec2 0xA1 (num 2 40) (num 0 200))).e.bytecount.toNat + 5 ≤ maxStreamLen :=
  ⟨⟨rfl, rfl⟩, by decide, by decide⟩
theorem witness_IllFormedRecordRaisesErrRecord :
    RecordArrives (atRecord 4 (rec0 0x42)) (rec0 0x42) [] ∧ wfRecord tRom (rec0 0x42) = false :=
  ⟨⟨rfl, rfl⟩, by decide⟩
theorem witness_EmittedRecordsAreCanonical :
    ∃ t, step (atFrame [0xC1]) = .next t ∧ t.dOut = (atFrame [0xC1]).dOut ++ [.record (rec0 0xC1)] :=
  ⟨_, rfl, by decide⟩

/-! ### Witnesses: the events, a state for each clause -/

theorem witness_StartDecodeEffect :
    (atDu .err .startDecode).input = [.startDecode] ∧ (atDu .err .startDecode).d.state = .err ∧
      (atDu .pay .startDecode).d.state = .pay := ⟨rfl, rfl, rfl⟩
/-- Offset 2 (the last of the tag), matched and not matched, and offset 3. -/
theorem witness_HeaderByteEffect :
    let s := { atDu .hdr (.byte 0x4C) with d := { DecoderUnit.afterReset with state := .hdr, hdrIdx := 2, cursor := 2 } }
    let t := { s with d := { s.d with hdrIdx := 3, cursor := 3 } }
    s.input = [.byte 0x4C] ∧ s.d.state = .hdr ∧ s.d.cursor.toNat < maxStreamLen ∧
      (s.d.hdrIdx ≠ 3 ∧ tag[s.d.hdrIdx.toNat]? = some 0x4C) ∧ (s.d.hdrIdx ≠ 3 ∧ tag[s.d.hdrIdx.toNat]? ≠ some 0x58) ∧
      (t.d.state = .hdr ∧ t.d.hdrIdx = 3) := by decide
/-- A one-byte frame and a longer one, at the last cursor a byte is taken at. -/
theorem witness_OpcodeByteEffect :
    let s := { atDu .opc (.byte 0xC1) with d := { DecoderUnit.afterReset with state := .opc, cursor := 4294967294 } }
    s.input = [.byte 0xC1] ∧ s.d.state = .opc ∧ s.d.cursor.toNat < maxStreamLen ∧ tRom.len 0xC1 = 1 ∧
      tRom.len 0xA1 ≠ 1 := by decide

/-- The DU with a byte waiting at a cursor. -/
def atLimit (st : DState) (n : Count) : State :=
  { atDu st (.byte 0) with d := { DecoderUnit.afterReset with state := st, cursor := n } }

/-- The DU in `D_ERR` after a stream of `n` zero bytes, with a byte waiting. -/
def drained (n : Nat) : State :=
  { atDu .err (.byte 0) with sIn := (List.range n).map (fun a => (a, (0 : Byte))) }

theorem drained_received (n : Nat) : received (drained n) = n := by simp [received, drained]

/-- The DU inside a two-operand frame, all but its last byte collected. -/
def inFrame : State := atFrame [0xA1, 0x02, 0x00, 0x00, 0x24]

/-- Its fields agree with one another. -/
theorem inFrame_du : DuConsistent inFrame.rom inFrame.d := by constructor <;> decide

theorem witness_PayloadByteEffect :
    inFrame.input = [.byte 0x24] ∧ inFrame.d.state = .pay ∧ inFrame.d.cursor.toNat < maxStreamLen ∧
      inFrame.d.payIdx.toNat + 2 = inFrame.d.curLen.toNat ∧ DuConsistent inFrame.rom inFrame.d :=
  ⟨by decide, by decide, by decide, by decide, inFrame_du⟩
theorem witness_EndOfStreamEffect :
    (atDu .opc .eos).input = [.eos] ∧ (atDu .opc .eos).d.state = .opc ∧
      ((atDu .hdr .eos).d.state = .hdr ∧ (atDu .hdr .eos).d.hdrIdx ≠ 3) ∧ (atDu .pay .eos).d.state = .pay := by decide
theorem witness_StartEncodeEffect :
    (atEu .err .startEncode).input = [.startEncode] ∧ (atEu .err .startEncode).e.state = .err ∧
      (atEu .run .startEncode).e.state = .run := by decide
theorem witness_EndScriptEffect :
    (atEu .run .endScript).input = [.endScript] ∧ (atEu .run .endScript).e.state = .run := by decide
theorem witness_ErrorStatesDrain :
    ((drained 4294967294).input = [.byte 0] ∧ (drained 4294967294).d.state = .err ∧
        received (drained 4294967294) < maxStreamLen) ∧
      ((atDu .err .eos).input = [.eos] ∧ (atDu .err .eos).d.state = .err) ∧
      ((atEu .err .endScript).input = [.endScript] ∧ (atEu .err .endScript).e.state = .err) :=
  ⟨⟨rfl, rfl, by rw [drained_received]; decide⟩, by decide, by decide⟩
theorem witness_ResetEffect : (atDu .pay .reset).input = [.reset] := by decide
/-- A cursor at the limit and one short of it, a drained stream at the limit and one short of it, and a script whose
bytes would pass it. -/
theorem witness_RefusesExactlyPastMaxStreamLen :
    ((atLimit .opc 4294967295).input = [.byte 0] ∧ (atLimit .opc 4294967295).d.state = .opc ∧
      (atLimit .opc 4294967295).d.cursor.toNat = maxStreamLen ∧
      refusal (step (atLimit .opc 4294967295)) = some .streamTooLong ∧
      (atLimit .opc 4294967294).d.cursor.toNat ≠ maxStreamLen) ∧
    ((drained 4294967295).input = [.byte 0] ∧ (drained 4294967295).d.state = .err ∧
      received (drained 4294967295) = maxStreamLen ∧ received (drained 4294967294) < maxStreamLen) ∧
    ((atRecord 4294967291 (rec2 0xA1 (num 0 0) (num 0 0))).e.state = .run ∧
      wfRecord tRom (rec2 0xA1 (num 0 0) (num 0 0)) = true ∧
      encRec tRom (rec2 0xA1 (num 0 0) (num 0 0)) = some ([0xA1, 0x00, 0x00, 0x00, 0x00], [false, false]) ∧
      refusal (step (atRecord 4294967291 (rec2 0xA1 (num 0 0) (num 0 0)))) = some .outputTooLong) :=
  ⟨by decide, ⟨rfl, rfl, drained_received _, by rw [drained_received]; decide⟩, by decide⟩

/-! ### Witnesses: the invariants and the whole-machine rules -/

theorem inFrame_inv : Inv inFrame :=
  { rom_admissible := by decide
    du := inFrame_du
    eu := by constructor <;> decide
    input_contiguous := by constructor <;> decide
    output_contiguous := by unfold OutputContiguous; decide }
theorem witness_StepKeepsInvariant : Inv inFrame ∧ ∃ t, step inFrame = .next t := ⟨inFrame_inv, _, rfl⟩
theorem witness_StepKeepsRom : ∃ t, step inFrame = .next t := ⟨_, rfl⟩
theorem witness_StepKeepsByteSpacesCanonical :
    Memory.wf inFrame.sIn ∧ Memory.wf inFrame.sOut ∧ ∃ t, step inFrame = .next t := ⟨by decide, by decide, _, rfl⟩
theorem witness_OnlyStartOrResetLeavesErrorState :
    (∃ t, step (atDu .err (.byte 0)) = .next t ∧ (atDu .err (.byte 0)).d.state = .err) ∧
      ∃ t, step (atEu .err .startEncode) = .next t ∧ (atEu .err .startEncode).e.state = .err :=
  ⟨⟨_, rfl, rfl⟩, _, rfl, rfl⟩
theorem witness_StatusesBelongToTheirUnit :
    (∃ t, step (atDu .pay .eos) = .next t ∧ t.dOut = (atDu .pay .eos).dOut ++ [.finished .errTruncated] ∧
      t.d.state = .err ∧ (atDu .pay .eos).d.state ≠ .err) ∧
    ∃ t, step (atRecord 4 (rec0 0x42)) = .next t ∧
      t.eOut = (atRecord 4 (rec0 0x42)).eOut ++ [.finished .errRecord] ∧ t.e.state = .err ∧
      (atRecord 4 (rec0 0x42)).e.state ≠ .err :=
  ⟨⟨_, rfl, by decide, by decide, by decide⟩, _, rfl, by decide, by decide, by decide⟩
theorem witness_EveryDecodeMakesProgress :
    DuConsistent inFrame.rom inFrame.d ∧ (∃ t, step inFrame = .next t) ∧
      ∃ t, step { inFrame with input := [.eos] } = .next t := ⟨inFrame_du, ⟨_, rfl⟩, _, rfl⟩
/-- The same DU beside two different encoder sides, and the same EU beside two different decoder sides. -/
theorem witness_UnitsDoNotInterfere :
    (SameDecoderSide inFrame { inFrame with e := { inFrame.e with state := .err } } ∧ (∃ t, step inFrame = .next t) ∧
      (HostEvent.byte 0x24).toDecoder = true) ∧
    (SameEncoderSide (atEu .run .endScript) { atEu .run .endScript with d := inFrame.d } ∧
      (∃ t, step (atEu .run .endScript) = .next t) ∧ HostEvent.endScript.toEncoder = true) :=
  ⟨⟨⟨rfl, rfl, rfl, rfl⟩, ⟨_, rfl⟩, rfl⟩, ⟨rfl, rfl, rfl, rfl⟩, ⟨_, rfl⟩, rfl⟩
theorem witness_StatusWordFields :
    DuConsistent tRom DecoderUnit.afterReset ∧ DecoderUnit.afterReset.versionValid = false :=
  ⟨by constructor <;> decide, rfl⟩

/-! ### Witnesses: the whole runs -/

theorem witness_DecoderRunAgreesWithDecode :
    let bytes := H ++ [0xC0, 0x00, 0x20]
    let s := { State.resetWith tRom with input := decodeEvents bytes }
    s.d.state.atRest = true ∧ bytes.length ≤ maxStreamLen ∧ s.input = decodeEvents bytes ∧
      (decodeStream s.rom bytes).1 = .ok ∧ (decodeStream s.rom (H ++ [0xC0])).1 = .errTruncated ∧
      (decodeStream s.rom [0x4E, 0x53]).1 = .errHeader := by decide
theorem witness_EncoderRunAgreesWithEncode :
    let rs := [rec1 0xC0 (num 0 200), rec0 0x42]
    let s := { State.resetWith tRom with input := encodeEvents rs }
    s.e.state.atRest = true ∧ (encodeScript s.rom (wellFormedPrefix s.rom rs)).2.length ≤ maxStreamLen ∧
      s.input = encodeEvents rs := by decide
theorem witness_RoundTripExactlyOnValidStreams :
    (decodeStream tRom (H ++ [0xA1, 0x02, 0x00, 0x00, 0x24, 0xFF])).1 = .ok ∧
      validStream tRom (H ++ [0xA1, 0x02, 0x00, 0x00, 0x24, 0xFF]) = true ∧
      validStream tRom (H ++ [0xA1, 0x07, 0x10, 0x00, 0x00]) = false := by decide
theorem witness_DecodeOfEncodedScript :
    ∀ x ∈ [rec1 0xC0 (num 0 200), { op := 0xC1, a := num 1 9, b := num 0xF 3, w := 0xBEEF }],
      wfRecord tRom x = true := by decide
theorem witness_HeaderRejection :
    (decodeStream tRom [0x4E, 0x53, 0x58, 0x01]).1 = .errHeader ∧ (decodeStream tRom [0x4E, 0x53, 0x4C]).1 = .ok := by
  decide

end Sys2Proof.Tests
end

/-! Non-interference of the two units (20_memory R63, 60_exceptions R262). A step on an event of one unit commutes with
replacing everything the other unit owns: `step_withDecoderSide` and `step_withEncoderSide` are these two commuting
squares, each built from one square per operation, and both halves of the obligation (the frame and the agreement of
two runs) are read off them. -/

namespace Sys2Proof.Machine

/-! ### What a header byte does, case by case (41_frame_decoder R147) -/

theorem onHeaderByte_of_version {b : Byte} {s : State} (h3 : s.d.hdrIdx = 3) :
    onHeaderByte b s = { takeByte b s with d := captureVersion b s.d } := if_pos h3

theorem onHeaderByte_of_tag {b : Byte} {s : State} (h3 : s.d.hdrIdx ≠ 3) (htag : b = tag.getD s.d.hdrIdx.toNat 0) :
    onHeaderByte b s =
      { takeByte b s with d := { s.d with hdrIdx := s.d.hdrIdx + 1, cursor := s.d.cursor + 1 } } :=
  (if_neg h3).trans (if_pos htag)

theorem onHeaderByte_of_mismatch {b : Byte} {s : State} (h3 : s.d.hdrIdx ≠ 3)
    (htag : b ≠ tag.getD s.d.hdrIdx.toNat 0) : onHeaderByte b s = raiseD .errHeader (takeByte b s) :=
  (if_neg h3).trans (if_neg htag)

/-! ### Replacing one unit's side -/

/-- The state `s'` with everything the DU owns taken from `s`. -/
def State.withDecoderSide (s' s : State) : State := { s' with d := s.d, sIn := s.sIn, dOut := s.dOut }

/-- The state `s'` with everything the EU owns taken from `s`. -/
def State.withEncoderSide (s' s : State) : State := { s' with e := s.e, sOut := s.sOut, eOut := s.eOut }

/-- An outcome with its next state, if it has one, replaced. -/
def mapNext (f : State → State) : Host.Outcome State Fault Refusal → Host.Outcome State Fault Refusal
  | .next t => .next (f t)
  | .fault x => .fault x
  | .refused x => .refused x

@[simp] theorem mapNext_next (f : State → State) (t : State) : mapNext f (.next t) = .next (f t) := rfl
@[simp] theorem mapNext_refused (f : State → State) (x : Refusal) : mapNext f (.refused x) = .refused x := rfl

@[simp] theorem mapNext_ite (f : State → State) (c : Prop) [Decidable c] (o o' : Host.Outcome State Fault Refusal) :
    mapNext f (if c then o else o') = if c then mapNext f o else mapNext f o' := apply_ite _ _ _ _

@[simp] theorem withDecoderSide_rom (s' s : State) : (s'.withDecoderSide s).rom = s'.rom := rfl
@[simp] theorem withDecoderSide_d (s' s : State) : (s'.withDecoderSide s).d = s.d := rfl
@[simp] theorem withDecoderSide_e (s' s : State) : (s'.withDecoderSide s).e = s'.e := rfl
@[simp] theorem withDecoderSide_sIn (s' s : State) : (s'.withDecoderSide s).sIn = s.sIn := rfl
@[simp] theorem withDecoderSide_sOut (s' s : State) : (s'.withDecoderSide s).sOut = s'.sOut := rfl
@[simp] theorem withDecoderSide_input (s' s : State) : (s'.withDecoderSide s).input = s'.input := rfl
@[simp] theorem withDecoderSide_dOut (s' s : State) : (s'.withDecoderSide s).dOut = s.dOut := rfl
@[simp] theorem withDecoderSide_eOut (s' s : State) : (s'.withDecoderSide s).eOut = s'.eOut := rfl

@[simp] theorem withEncoderSide_rom (s' s : State) : (s'.withEncoderSide s).rom = s'.rom := rfl
@[simp] theorem withEncoderSide_d (s' s : State) : (s'.withEncoderSide s).d = s'.d := rfl
@[simp] theorem withEncoderSide_e (s' s : State) : (s'.withEncoderSide s).e = s.e := rfl
@[simp] theorem withEncoderSide_sIn (s' s : State) : (s'.withEncoderSide s).sIn = s'.sIn := rfl
@[simp] theorem withEncoderSide_sOut (s' s : State) : (s'.withEncoderSide s).sOut = s.sOut := rfl
@[simp] theorem withEncoderSide_input (s' s : State) : (s'.withEncoderSide s).input = s'.input := rfl
@[simp] theorem withEncoderSide_dOut (s' s : State) : (s'.withEncoderSide s).dOut = s'.dOut := rfl
@[simp] theorem withEncoderSide_eOut (s' s : State) : (s'.withEncoderSide s).eOut = s.eOut := rfl

@[simp] theorem withDecoderSide_self (s : State) : s.withDecoderSide s = s := rfl
@[simp] theorem withEncoderSide_self (s : State) : s.withEncoderSide s = s := rfl

/-- A state the DU cannot tell from `s` already has the DU's side of `s`. -/
theorem SameDecoderSide.withDecoderSide_eq {s s' : State} (h : SameDecoderSide s s') : s'.withDecoderSide s = s' := by
  obtain ⟨_, hd, hsIn, hdOut⟩ := h
  rw [State.withDecoderSide, ← hd, ← hsIn, ← hdOut]

/-- A state the EU cannot tell from `s` already has the EU's side of `s`. -/
theorem SameEncoderSide.withEncoderSide_eq {s s' : State} (h : SameEncoderSide s s') : s'.withEncoderSide s = s' := by
  obtain ⟨_, he, hsOut, heOut⟩ := h
  rw [State.withEncoderSide, ← he, ← hsOut, ← heOut]

/-! ### The DU's operations commute with replacing the rest of the state -/

@[simp] theorem startDecoder_withDecoderSide (s' s : State) :
    startDecoder (consume (s'.withDecoderSide s)) = (consume s').withDecoderSide (startDecoder (consume s)) := rfl

@[simp] theorem drainByte_withDecoderSide (b : Byte) (s' s : State) :
    drainByte b (s'.withDecoderSide s) = (consume s').withDecoderSide (drainByte b s) := rfl

@[simp] theorem raiseD_withDecoderSide (code : Status) (s' s : State) :
    raiseD code (consume (s'.withDecoderSide s)) = (consume s').withDecoderSide (raiseD code (consume s)) := rfl

@[simp] theorem finishDecode_withDecoderSide (s' s : State) :
    finishDecode (consume (s'.withDecoderSide s)) = (consume s').withDecoderSide (finishDecode (consume s)) := rfl

@[simp] theorem streamFull_withDecoderSide (s' s : State) : streamFull (s'.withDecoderSide s) = streamFull s := rfl

@[simp] theorem drainFull_withDecoderSide (s' s : State) : drainFull (s'.withDecoderSide s) = drainFull s := rfl

@[simp] theorem frameBytes_withDecoderSide {s' s : State} (last : Byte) (hrom : s'.rom = s.rom) :
    frameBytes (s'.withDecoderSide s) last = frameBytes s last := by
  simp [frameBytes, hrom]

@[simp] theorem frameCompletes_withDecoderSide {s' s : State} (b : Byte) (hrom : s'.rom = s.rom) :
    frameCompletes (s'.withDecoderSide s) b = frameCompletes s b := by
  rw [frameCompletes, withDecoderSide_rom, hrom]
  rfl

theorem onHeaderByte_withDecoderSide (b : Byte) (s' s : State) :
    onHeaderByte b (s'.withDecoderSide s) = (consume s').withDecoderSide (onHeaderByte b s) := by
  by_cases h3 : s.d.hdrIdx = 3
  · rw [onHeaderByte_of_version h3, onHeaderByte_of_version (s := s'.withDecoderSide s) h3]
    rfl
  · by_cases htag : b = tag.getD s.d.hdrIdx.toNat 0
    · rw [onHeaderByte_of_tag h3 htag, onHeaderByte_of_tag (s := s'.withDecoderSide s) h3 htag]
      rfl
    · rw [onHeaderByte_of_mismatch h3 htag, onHeaderByte_of_mismatch (s := s'.withDecoderSide s) h3 htag]
      rfl

theorem collectByte_withDecoderSide {s' s : State} (b : Byte) (hrom : s'.rom = s.rom) :
    collectByte b (s'.withDecoderSide s) = (consume s').withDecoderSide (collectByte b s) := by
  simp only [collectByte, frameCompletes_withDecoderSide b hrom, withDecoderSide_rom, hrom]
  rfl

theorem finishFrame_withDecoderSide {s' s : State} (op : Byte) (body : Body) (last : Byte) (hrom : s'.rom = s.rom) :
    finishFrame op body last (s'.withDecoderSide s) = (consume s').withDecoderSide (finishFrame op body last s) := by
  simp only [finishFrame, collectByte_withDecoderSide last hrom]
  rfl

/-! ### A step on an event of the DU -/

theorem onStartDecode_withDecoderSide (s' s : State) :
    onStartDecode (s'.withDecoderSide s) = mapNext (consume s').withDecoderSide (onStartDecode s) := by
  cases hd : s.d.state <;> simp [onStartDecode, hd]

theorem onByte_withDecoderSide {s' s : State} (b : Byte) (hrom : s'.rom = s.rom) :
    onByte b (s'.withDecoderSide s) = mapNext (consume s').withDecoderSide (onByte b s) := by
  cases hd : s.d.state
  case err => cases hfull : drainFull s <;> simp [onByte, hd, hfull]
  all_goals simp [onByte, hd, onHeaderByte_withDecoderSide, collectByte_withDecoderSide b hrom]

theorem onEos_withDecoderSide (s' s : State) :
    onEos (s'.withDecoderSide s) = mapNext (consume s').withDecoderSide (onEos s) := by
  cases hd : s.d.state
  case hdr =>
    by_cases h3 : s.d.hdrIdx = 3 <;>
      simp only [onEos, hd, h3, withDecoderSide_d, reduceIte, mapNext_next, finishDecode_withDecoderSide,
        raiseD_withDecoderSide]
  case err => simp only [onEos, hd, withDecoderSide_d]; rfl
  all_goals simp [onEos, hd]

theorem runFrame_withDecoderSide {s' s : State} {last : Byte} {rest rest' : List HostEvent} (op : Byte) (body : Body)
    (hrom : s'.rom = s.rom) (hin : s.input = .byte last :: rest) (hin' : s'.input = .byte last :: rest') :
    runFrame op body (s'.withDecoderSide s) = mapNext (consume s').withDecoderSide (runFrame op body s) := by
  simp [runFrame, hin, hin', hrom, decodeLast, finishFrame_withDecoderSide op body last hrom]

theorem fetchInstr_withDecoderSide {s' s : State} {ev : HostEvent} {rest rest' : List HostEvent}
    (hrom : s'.rom = s.rom) (hin : s.input = ev :: rest) (hin' : s'.input = ev :: rest') (hev : ev.toDecoder = true) :
    fetchInstr (s'.withDecoderSide s) = fetchInstr s := by
  cases ev
  case byte last => simp [fetchInstr, hin, hin', hrom]
  case startDecode | eos => simp [fetchInstr, hin, hin']
  case startEncode | record | endScript | reset => cases hev

/-- Only a byte completes an instruction in the DU. -/
theorem input_byte_of_fetchInstr {s : State} {ev : HostEvent} {rest : List HostEvent} {i : Instr}
    (hin : s.input = ev :: rest) (hev : ev.toDecoder = true) (hi : fetchInstr s = some i) : ∃ b, ev = .byte b := by
  cases ev
  case byte b => exact ⟨b, rfl⟩
  case startDecode | eos => simp [fetchInstr, hin] at hi
  case startEncode | record | endScript | reset => cases hev

theorem handleEvent_withDecoderSide {s' s : State} {ev : HostEvent} {rest rest' : List HostEvent}
    (hrom : s'.rom = s.rom) (hin : s.input = ev :: rest) (hin' : s'.input = ev :: rest') (hev : ev.toDecoder = true) :
    handleEvent (s'.withDecoderSide s) = mapNext (consume s').withDecoderSide (handleEvent s) := by
  cases ev
  case startDecode => simp [handleEvent, hin, hin', onStartDecode_withDecoderSide]
  case byte b => simp [handleEvent, hin, hin', onByte_withDecoderSide b hrom]
  case eos => simp [handleEvent, hin, hin', onEos_withDecoderSide]
  case startEncode | record | endScript | reset => cases hev

/-- The DU's commuting square: what a step does on an event of the DU, it does whatever stands on the EU's side, and
leaves that side as it is. -/
theorem step_withDecoderSide {s' s : State} {ev : HostEvent} {rest rest' : List HostEvent}
    (hrom : s'.rom = s.rom) (hin : s.input = ev :: rest) (hin' : s'.input = ev :: rest') (hev : ev.toDecoder = true) :
    step (s'.withDecoderSide s) = mapNext (consume s').withDecoderSide (step s) := by
  have hfetch := fetchInstr_withDecoderSide hrom hin hin' hev
  cases hi : fetchInstr s with
  | none => rw [step_of_no_fetch hi, step_of_no_fetch (hfetch.trans hi), handleEvent_withDecoderSide hrom hin hin' hev]
  | some i =>
    obtain ⟨b, rfl⟩ := input_byte_of_fetchInstr hin hev hi
    rw [step_of_fetch hi, step_of_fetch (hfetch.trans hi), exec_eq_runFrame, exec_eq_runFrame, withDecoderSide_rom,
      hrom, runFrame_withDecoderSide _ _ hrom hin hin']

/-! ### The EU's operations commute with replacing the rest of the state -/

@[simp] theorem startEncoder_withEncoderSide (s' s : State) :
    startEncoder (consume (s'.withEncoderSide s)) = (consume s').withEncoderSide (startEncoder (consume s)) := rfl

@[simp] theorem raiseE_withEncoderSide (code : Status) (s' s : State) :
    raiseE code (consume (s'.withEncoderSide s)) = (consume s').withEncoderSide (raiseE code (consume s)) := rfl

@[simp] theorem outputFits_withEncoderSide (s' s : State) (n : Nat) :
    outputFits (s'.withEncoderSide s) n = outputFits s n := rfl

theorem noteClamps_withEncoderSide (gs : List Diag) (s' s : State) :
    noteClamps gs (s'.withEncoderSide s) = s'.withEncoderSide (noteClamps gs s) := by
  induction gs generalizing s with
  | nil => rfl
  | cons g rest ih => exact ih (noteClamp s g)

@[simp] theorem sendFrame_withEncoderSide (bs : List Byte) (clamps : List Diag) (s' s : State) :
    sendFrame bs clamps (s'.withEncoderSide s) = (consume s').withEncoderSide (sendFrame bs clamps s) := by
  rw [sendFrame, sendFrame, ← noteClamps_withEncoderSide]
  rfl

/-! ### A step on an event of the EU -/

theorem onStartEncode_withEncoderSide (s' s : State) :
    onStartEncode (s'.withEncoderSide s) = mapNext (consume s').withEncoderSide (onStartEncode s) := by
  cases he : s.e.state <;> simp [onStartEncode, he]

theorem onRecord_withEncoderSide (s' s : State) :
    onRecord (s'.withEncoderSide s) = mapNext (consume s').withEncoderSide (onRecord s) := by
  cases he : s.e.state <;> simp only [onRecord, he, withEncoderSide_e] <;> rfl

theorem onEndScript_withEncoderSide (s' s : State) :
    onEndScript (s'.withEncoderSide s) = mapNext (consume s').withEncoderSide (onEndScript s) := by
  cases he : s.e.state <;> simp only [onEndScript, he, withEncoderSide_e] <;> rfl

theorem encodeFrame_withEncoderSide (op : Byte) (body : Body) (s' s : State) :
    encodeFrame op body (s'.withEncoderSide s) = mapNext (consume s').withEncoderSide (encodeFrame op body s) := by
  cases hbs : encBody op body <;> simp [encodeFrame, hbs]

theorem runFrame_withEncoderSide {s' s : State} {rec : Record} {rest rest' : List HostEvent} (op : Byte) (body : Body)
    (hin : s.input = .record rec :: rest) (hin' : s'.input = .record rec :: rest') :
    runFrame op body (s'.withEncoderSide s) = mapNext (consume s').withEncoderSide (runFrame op body s) := by
  simp [runFrame, hin, hin', encodeFrame_withEncoderSide]

theorem fetchInstr_withEncoderSide {s' s : State} {ev : HostEvent} {rest rest' : List HostEvent}
    (hrom : s'.rom = s.rom) (hin : s.input = ev :: rest) (hin' : s'.input = ev :: rest') (hev : ev.toEncoder = true) :
    fetchInstr (s'.withEncoderSide s) = fetchInstr s := by
  cases ev
  case record rec => simp [fetchInstr, hin, hin', hrom]
  case startEncode | endScript => simp [fetchInstr, hin, hin']
  case startDecode | byte | eos | reset => cases hev

/-- Only a record carries an instruction to the EU. -/
theorem input_record_of_fetchInstr {s : State} {ev : HostEvent} {rest : List HostEvent} {i : Instr}
    (hin : s.input = ev :: rest) (hev : ev.toEncoder = true) (hi : fetchInstr s = some i) : ∃ r, ev = .record r := by
  cases ev
  case record r => exact ⟨r, rfl⟩
  case startEncode | endScript => simp [fetchInstr, hin] at hi
  case startDecode | byte | eos | reset => cases hev

theorem handleEvent_withEncoderSide {s' s : State} {ev : HostEvent} {rest rest' : List HostEvent}
    (hin : s.input = ev :: rest) (hin' : s'.input = ev :: rest') (hev : ev.toEncoder = true) :
    handleEvent (s'.withEncoderSide s) = mapNext (consume s').withEncoderSide (handleEvent s) := by
  cases ev
  case startEncode => simp [handleEvent, hin, hin', onStartEncode_withEncoderSide]
  case record rec => simp [handleEvent, hin, hin', onRecord_withEncoderSide]
  case endScript => simp [handleEvent, hin, hin', onEndScript_withEncoderSide]
  case startDecode | byte | eos | reset => cases hev

/-- The EU's commuting square: what a step does on an event of the EU, it does whatever stands on the DU's side, and
leaves that side as it is. -/
theorem step_withEncoderSide {s' s : State} {ev : HostEvent} {rest rest' : List HostEvent}
    (hrom : s'.rom = s.rom) (hin : s.input = ev :: rest) (hin' : s'.input = ev :: rest') (hev : ev.toEncoder = true) :
    step (s'.withEncoderSide s) = mapNext (consume s').withEncoderSide (step s) := by
  have hfetch := fetchInstr_withEncoderSide hrom hin hin' hev
  cases hi : fetchInstr s with
  | none => rw [step_of_no_fetch hi, step_of_no_fetch (hfetch.trans hi), handleEvent_withEncoderSide hin hin' hev]
  | some i =>
    obtain ⟨r, rfl⟩ := input_record_of_fetchInstr hin hev hi
    rw [step_of_fetch hi, step_of_fetch (hfetch.trans hi), exec_eq_runFrame, exec_eq_runFrame, withEncoderSide_rom,
      hrom, runFrame_withEncoderSide _ _ hin hin']

/-! ### Frame and agreement -/

/-- The frame of the DU's steps: the square of `s` with itself. -/
theorem sameEncoderSide_of_decoder_step {s t : State} {ev : HostEvent} {rest : List HostEvent}
    (hin : s.input = ev :: rest) (hev : ev.toDecoder = true) (h : step s = .next t) : SameEncoderSide s t := by
  have hsq := step_withDecoderSide rfl hin hin hev
  rw [withDecoderSide_self, h, mapNext_next, Host.Outcome.next.injEq] at hsq
  rw [hsq]
  exact ⟨rfl, rfl, rfl, rfl⟩

/-- The frame of the EU's steps: the square of `s` with itself. -/
theorem sameDecoderSide_of_encoder_step {s t : State} {ev : HostEvent} {rest : List HostEvent}
    (hin : s.input = ev :: rest) (hev : ev.toEncoder = true) (h : step s = .next t) : SameDecoderSide s t := by
  have hsq := step_withEncoderSide rfl hin hin hev
  rw [withEncoderSide_self, h, mapNext_next, Host.Outcome.next.injEq] at hsq
  rw [hsq]
  exact ⟨rfl, rfl, rfl, rfl⟩

/-- Two states the DU cannot tell apart step alike on an event of the DU. -/
theorem decoder_step_agrees {s s' t : State} {ev : HostEvent} {rest rest' : List HostEvent}
    (hin : s.input = ev :: rest) (hin' : s'.input = ev :: rest') (hev : ev.toDecoder = true)
    (hsame : SameDecoderSide s s') (h : step s = .next t) : ∃ t', step s' = .next t' ∧ SameDecoderSide t t' := by
  have hsq := step_withDecoderSide hsame.1 hin hin' hev
  rw [hsame.withDecoderSide_eq, h, mapNext_next] at hsq
  obtain ⟨htrom, -, -, -⟩ := sameEncoderSide_of_decoder_step hin hev h
  exact ⟨_, hsq, hsame.1.trans htrom.symm, rfl, rfl, rfl⟩

/-- Two states the EU cannot tell apart step alike on an event of the EU. -/
theorem encoder_step_agrees {s s' t : State} {ev : HostEvent} {rest rest' : List HostEvent}
    (hin : s.input = ev :: rest) (hin' : s'.input = ev :: rest') (hev : ev.toEncoder = true)
    (hsame : SameEncoderSide s s') (h : step s = .next t) : ∃ t', step s' = .next t' ∧ SameEncoderSide t t' := by
  have hsq := step_withEncoderSide hsame.1 hin hin' hev
  rw [hsame.withEncoderSide_eq, h, mapNext_next] at hsq
  obtain ⟨htrom, -, -, -⟩ := sameDecoderSide_of_encoder_step hin hev h
  exact ⟨_, hsq, hsame.1.trans htrom.symm, rfl, rfl, rfl⟩

/-- Settles O54, by the two commuting squares. -/
theorem unitsDoNotInterfere : Obligations.UnitsDoNotInterfere := by
  intro s s' t ev rest rest' hin hin' h
  refine ⟨fun hev => ⟨sameEncoderSide_of_decoder_step hin hev h, fun hsame => ?_⟩,
    fun hev => ⟨sameDecoderSide_of_encoder_step hin hev h, fun hsame => ?_⟩⟩
  · obtain ⟨t', ht', hagree⟩ := decoder_step_agrees hin hin' hev hsame h
    exact ⟨t', ht', hagree, sameEncoderSide_of_decoder_step hin' hev ht'⟩
  · obtain ⟨t', ht', hagree⟩ := encoder_step_agrees hin hin' hev hsame h
    exact ⟨t', ht', hagree, sameDecoderSide_of_encoder_step hin' hev ht'⟩

end Sys2Proof.Machine

/-! What a step does, said once (10_state; 41_frame_decoder R146 to R152; 42_frame_encoder R181 to R186): `StepEffect`
lists every next state a step can answer, one constructor per effect, with the decode of a completed frame already
brought to `recon`. The invariants and the whole-state rules of 10_state are case analyses over it. -/

namespace Sys2Proof

open Sys2Proof.Machine

/-! ### The instruction of a frame, by the shape of its opcode byte -/

/-- The body a shape makes of two fields and a wide integer (30_encoding R72). -/
def Shape.bodyWith : Shape → Field → Field → Wide → Body
  | .z, _, _, _ => .z
  | .o, a, _, _ => .o a
  | .w, _, _, v => .w v
  | .t, a, b, _ => .t a b

theorem instrOf_opcode (r : Rom) (op : Byte) (a b : Field) (v : Wide) : (instrOf r op a b v).opcode r = op := by
  unfold instrOf
  split_ifs with hset hloop hend hff
  · exact hset.symm
  · exact hloop.symm
  · exact hend.symm
  · exact hff.symm
  · cases hu : UOp.ofByte op with
    | none => rfl
    | some u =>
      have hop : op = u.byte := byte_of_ofByte hu
      simp only [openInstr]
      split_ifs with hjump hclear htwo
      · rw [hop, hjump]; rfl
      · rw [hop, hclear]; rfl
      · rw [hop, opcode_ofOpen]
      · rw [hop, opcode_ofOpen]

theorem instrOf_body (r : Rom) (op : Byte) (a b : Field) (v : Wide) :
    (instrOf r op a b v).body = (r.shape op).bodyWith a b v := by
  unfold instrOf Rom.shape
  split_ifs
  · rfl
  · rfl
  · rfl
  · rfl
  · cases UOp.ofByte op with
    | none => rfl
    | some u =>
      simp only [openInstr, Rom.openShape]
      split_ifs
      · rfl
      · rfl
      · exact body_ofOpen u (.two a b)
      · exact body_ofOpen u .zero

/-! ### Lengths and shapes of opcode bytes -/

theorem shape_of_unknown (r : Rom) {op : Byte} (h : opKnown op = false) : r.shape op = .z := by
  have hbytes : ∀ op : Byte, opKnown op = false →
      op ≠ 0xA1 ∧ op ≠ 0xC0 ∧ op ≠ 0xC1 ∧ op ≠ 0xFF ∧ UOp.ofByte op = none := by decide
  obtain ⟨hset, hloop, hend, hff, hopen⟩ := hbytes op h
  rw [Rom.shape, if_neg hset, if_neg hloop, if_neg hend, if_neg hff, hopen]

/-- The canonical opcode of a byte has that byte's shape (30_encoding R85, 41_frame_decoder R143). -/
@[simp] theorem shape_varOp (r : Rom) (op : Byte) : r.shape (varOp op) = r.shape op := by
  unfold varOp
  split_ifs with hknown
  · rfl
  · rw [shape_of_unknown r (op := op) (by simpa using hknown), shape_of_unknown r (op := 0x00) (by decide)]

theorem len_cases (r : Rom) (op : Byte) : r.len op = 1 ∨ r.len op = 3 ∨ r.len op = 5 := by
  unfold Rom.len
  cases r.shape op <;> simp [Shape.len]

theorem len_zero (r : Rom) : r.len 0x00 = 1 := by
  rw [Rom.len, shape_of_unknown r (by decide)]; rfl

/-- Only a frame of shape `Z` is one byte long (30_encoding R82). -/
theorem shape_of_len_one {r : Rom} {op : Byte} (h : r.len op = 1) : r.shape op = .z := by
  unfold Rom.len at h
  cases hs : r.shape op <;> simp [hs, Shape.len] at h ⊢

@[simp] theorem toNat_ofNat_len (r : Rom) (op : Byte) : (BitVec.ofNat 3 (r.len op)).toNat = r.len op := by
  rcases len_cases r op with h | h | h <;> rw [h] <;> rfl

end Sys2Proof

namespace Sys2Proof.Machine

/-! ### A completed frame reconstructs as `RECON` says (41_frame_decoder R144, R152) -/

/-- The reconstruction over an instruction's operands is the one over the payload bytes they were read from. -/
theorem recon_eq_reconBody (r : Rom) (fb : Count) (op : Byte) (pay : List Byte) :
    let body := (r.shape op).bodyWith (fieldOf (pay.getD 0 0) (pay.getD 1 0)) (fieldOf (pay.getD 2 0) (pay.getD 3 0))
      (wideDec (pay.getD 0 0) (pay.getD 1 0))
    recon r fb op pay = (reconBody op body, reconDiags fb op body) := by
  have hkind : ∀ k s, (fieldOf k s).kind = k := fun _ _ => rfl
  cases hs : r.shape op <;>
    simp [recon, hs, Shape.bodyWith, reconBody, reconDiags, reconField, fieldUnknown, hkind]

theorem decode_cons (r : Rom) (op : Byte) (pay : List Byte) :
    decode r (op :: pay) = if pay.length + 1 < r.len op then .error .truncated
      else .ok (decodeFrame r op (pay.getD 0 0) (pay.getD 1 0) (pay.getD 2 0) (pay.getD 3 0),
        pay.drop (r.len op - 1)) := rfl

theorem eq_decodeFrame_of_decode {r : Rom} {op : Byte} {pay rest : List Byte} {i : Instr}
    (h : decode r (op :: pay) = .ok (i, rest)) :
    i = decodeFrame r op (pay.getD 0 0) (pay.getD 1 0) (pay.getD 2 0) (pay.getD 3 0) := by
  rw [decode_cons] at h
  split_ifs at h
  cases h
  rfl

/-- The instruction decoded from a frame carries its opcode byte and reconstructs as the frame does. -/
theorem recon_of_decode {r : Rom} {op : Byte} {pay rest : List Byte} {i : Instr} (fb : Count)
    (h : decode r (op :: pay) = .ok (i, rest)) :
    i.opcode r = op ∧ recon r fb op pay = (reconBody op i.body, reconDiags fb op i.body) := by
  rw [eq_decodeFrame_of_decode h, decodeFrame, instrOf_opcode, instrOf_body]
  exact ⟨rfl, recon_eq_reconBody r fb op pay⟩

/-- A byte that completes a frame completes all of the frame's bytes (R148, R150). -/
theorem frameBytes_of_completes {s : State} {last : Byte} (hc : frameCompletes s last = true) :
    ∃ op pay, frameBytes s last = op :: pay ∧ pay.length + 1 = s.rom.len op := by
  cases hd : s.d.state <;> simp only [frameCompletes, frameBytes, hd, decide_eq_true_eq, reduceCtorEq] at hc ⊢
  case opc => exact ⟨last, [], rfl, hc.symm⟩
  case pay =>
    refine ⟨_, _, rfl, ?_⟩
    rcases len_cases s.rom s.d.curOp with h | h | h <;> rw [h] <;> rfl

/-- A byte that completes a frame brings an instruction, the one decoded from the frame's bytes. -/
theorem fetchInstr_of_completes {s : State} {last : Byte} {rest : List HostEvent} (hin : s.input = .byte last :: rest)
    (hc : frameCompletes s last = true) :
    ∃ op pay i later, frameBytes s last = op :: pay ∧ decode s.rom (op :: pay) = .ok (i, later) ∧
      fetchInstr s = some i := by
  obtain ⟨op, pay, hbytes, hlen⟩ := frameBytes_of_completes hc
  have hdec := (decode_cons s.rom op pay).trans (if_neg (by omega))
  exact ⟨op, pay, _, _, hbytes, hdec, by simp [fetchInstr, hin, hc, hbytes, hdec]⟩

/-- The DU at a byte that completes a frame: the byte is latched and the record of the frame's bytes emitted. -/
def completeFrame (op : Byte) (pay : List Byte) (last : Byte) (s : State) : State :=
  let out := recon s.rom (collectByte last s).d.frameBase op pay
  emitRecord out.1 out.2 (collectByte last s)

/-- The meaning of the instruction decoded from a frame completes the frame. -/
theorem finishFrame_of_decode {s : State} {op last : Byte} {pay rest : List Byte} {i : Instr}
    (h : decode s.rom (op :: pay) = .ok (i, rest)) :
    finishFrame (i.opcode s.rom) i.body last s = completeFrame op pay last s := by
  obtain ⟨hop, hrec⟩ := recon_of_decode (collectByte last s).d.frameBase h
  rw [completeFrame, hrec, hop]
  rfl

theorem step_of_completes {s : State} {op last : Byte} {pay : List Byte} {rest : List HostEvent}
    (hin : s.input = .byte last :: rest) (hc : frameCompletes s last = true) (hfull : streamFull s = false)
    (hbytes : frameBytes s last = op :: pay) : step s = .next (completeFrame op pay last s) := by
  obtain ⟨op', pay', i, later, hbytes', hdec, hfetch⟩ := fetchInstr_of_completes hin hc
  obtain ⟨rfl, rfl⟩ := List.cons.inj (hbytes.symm.trans hbytes')
  rw [step_of_fetch hfetch, exec_eq_runFrame, runFrame_byte _ _ _ _ _ hin hc, decodeLast, hfull,
    finishFrame_of_decode hdec]
  rfl

/-- A byte inside a frame that does not complete it is collected (R148, R150). -/
theorem step_of_frame_byte {s : State} {b : Byte} {rest : List HostEvent} (hin : s.input = .byte b :: rest)
    (hstate : s.d.state = .opc ∨ s.d.state = .pay) (hc : frameCompletes s b = false) (hfull : streamFull s = false) :
    step s = .next (collectByte b s) := by
  rw [step_of_no_fetch (by simp [fetchInstr, hin, hc])]
  rcases hstate with hd | hd <;> simp [handleEvent, hin, onByte, hd, hfull]

/-! ### Everything a step can do -/

/-- What a step on an event of the DU can do (41_frame_decoder R146 to R152). -/
inductive DecoderEffect (s : State) : State → Prop
  /-- `StartDecode` between runs (R146). -/
  | start {rest : List HostEvent} (hin : s.input = .startDecode :: rest) (hrest : s.d.state.atRest = true) :
      DecoderEffect s (startDecoder (consume s))
  /-- A tag byte that matches (R147). -/
  | tagByte {b : Byte} {rest : List HostEvent} (hin : s.input = .byte b :: rest) (hd : s.d.state = .hdr)
      (hfull : streamFull s = false) (hidx : s.d.hdrIdx ≠ 3) (hmatch : b = tag.getD s.d.hdrIdx.toNat 0) :
      DecoderEffect s { takeByte b s with d := { s.d with hdrIdx := s.d.hdrIdx + 1, cursor := s.d.cursor + 1 } }
  /-- A tag byte that does not match (R147). -/
  | tagMismatch {b : Byte} {rest : List HostEvent} (hin : s.input = .byte b :: rest) (hd : s.d.state = .hdr)
      (hfull : streamFull s = false) (hidx : s.d.hdrIdx ≠ 3) (hmatch : b ≠ tag.getD s.d.hdrIdx.toNat 0) :
      DecoderEffect s (raiseD .errHeader (takeByte b s))
  /-- The version byte (R147). -/
  | versionByte {b : Byte} {rest : List HostEvent} (hin : s.input = .byte b :: rest) (hd : s.d.state = .hdr)
      (hfull : streamFull s = false) (hidx : s.d.hdrIdx = 3) :
      DecoderEffect s { takeByte b s with d := captureVersion b s.d }
  /-- A byte of a frame that does not complete it (R148, R150). -/
  | collect {b : Byte} {rest : List HostEvent} (hin : s.input = .byte b :: rest)
      (hd : s.d.state = .opc ∨ s.d.state = .pay) (hfull : streamFull s = false) (hc : frameCompletes s b = false) :
      DecoderEffect s (collectByte b s)
  /-- The last byte of a frame (R148, R150, R152). -/
  | complete {b op : Byte} {pay : List Byte} {rest : List HostEvent} (hin : s.input = .byte b :: rest)
      (hd : s.d.state = .opc ∨ s.d.state = .pay) (hfull : streamFull s = false) (hc : frameCompletes s b = true)
      (hbytes : frameBytes s b = op :: pay) : DecoderEffect s (completeFrame op pay b s)
  /-- A byte in `D_ERR` (R151). -/
  | drainByte {b : Byte} {rest : List HostEvent} (hin : s.input = .byte b :: rest) (hd : s.d.state = .err)
      (hfull : drainFull s = false) : DecoderEffect s (drainByte b s)
  /-- `Eos` in `D_ERR` (R151). -/
  | drainEos {rest : List HostEvent} (hin : s.input = .eos :: rest) (hd : s.d.state = .err) :
      DecoderEffect s (consume s)
  /-- `Eos` between frames or after exactly the tag (R149, R151). -/
  | finish {rest : List HostEvent} (hin : s.input = .eos :: rest)
      (hd : (s.d.state = .hdr ∧ s.d.hdrIdx = 3) ∨ s.d.state = .opc) : DecoderEffect s (finishDecode (consume s))
  /-- `Eos` inside the tag (R151). -/
  | shortHeader {rest : List HostEvent} (hin : s.input = .eos :: rest) (hd : s.d.state = .hdr)
      (hidx : s.d.hdrIdx ≠ 3) : DecoderEffect s (raiseD .errHeader (consume s))
  /-- `Eos` inside a frame (R150). -/
  | shortFrame {rest : List HostEvent} (hin : s.input = .eos :: rest) (hd : s.d.state = .pay) :
      DecoderEffect s (raiseD .errTruncated (consume s))

/-- What a step on an event of the EU can do (42_frame_encoder R181 to R186). -/
inductive EncoderEffect (s : State) : State → Prop
  /-- `StartEncode` between runs (R181). -/
  | start {rest : List HostEvent} (hin : s.input = .startEncode :: rest) (hrest : s.e.state.atRest = true) :
      EncoderEffect s (startEncoder (consume s))
  /-- A record that is encoded (R182). -/
  | send {rec : Record} {rest : List HostEvent} {op : Byte} {body : Body} {bs : List Byte}
      (hin : s.input = .record rec :: rest) (he : s.e.state = .run) (hbs : encBody op body = some bs)
      (hfits : outputFits s bs.length = true) : EncoderEffect s (sendFrame bs (bodyClamps body) s)
  /-- A record that is not well formed (R182, R184). -/
  | reject {rec : Record} {rest : List HostEvent} (hin : s.input = .record rec :: rest) (he : s.e.state = .run) :
      EncoderEffect s (raiseE .errRecord (consume s))
  /-- A record or `EndScript` in `E_ERR` (R185). -/
  | drain {ev : HostEvent} {rest : List HostEvent} (hin : s.input = ev :: rest)
      (hev : ev = .endScript ∨ ∃ rec, ev = .record rec) (he : s.e.state = .err) : EncoderEffect s (consume s)
  /-- `EndScript` in `E_RUN` (R183). -/
  | finish {rest : List HostEvent} (hin : s.input = .endScript :: rest) (he : s.e.state = .run) :
      EncoderEffect s (emitE [.finished .ok] { consume s with e := { s.e with state := .done } })

/-- What a step can do: wait for an event, act in one unit, or reset both. -/
inductive StepEffect (s : State) : State → Prop
  | wait (hin : s.input = []) : StepEffect s s
  | decoder {t : State} (h : DecoderEffect s t) : StepEffect s t
  | encoder {t : State} (h : EncoderEffect s t) : StepEffect s t
  | reset {rest : List HostEvent} (hin : s.input = .reset :: rest) : StepEffect s (resetBlock (consume s))

theorem onHeaderByte_effect {s : State} {b : Byte} {rest : List HostEvent} (hin : s.input = .byte b :: rest)
    (hd : s.d.state = .hdr) (hfull : streamFull s = false) : DecoderEffect s (onHeaderByte b s) := by
  by_cases hidx : s.d.hdrIdx = 3
  · rw [onHeaderByte_of_version hidx]
    exact .versionByte hin hd hfull hidx
  · by_cases hmatch : b = tag.getD s.d.hdrIdx.toNat 0
    · rw [onHeaderByte_of_tag hidx hmatch]
      exact .tagByte hin hd hfull hidx hmatch
    · rw [onHeaderByte_of_mismatch hidx hmatch]
      exact .tagMismatch hin hd hfull hidx hmatch

theorem state_of_completes {s : State} {b : Byte} (hc : frameCompletes s b = true) :
    s.d.state = .opc ∨ s.d.state = .pay := by
  cases hd : s.d.state <;> simp [frameCompletes, hd] at hc ⊢

theorem exec_effect {s t : State} {i : Instr} (hfetch : fetchInstr s = some i) (h : exec i s = .next t) :
    StepEffect s t := by
  rw [exec_eq_runFrame] at h
  rcases runFrame_cases h with ⟨last, rest, hin, hc, hfull, rfl⟩ | ⟨rec, rest, bs, hin, he, -, hbs, hfits, rfl⟩ |
    ⟨rec, rest, hin, he, -, rfl⟩
  · obtain ⟨op, pay, j, later, hbytes, hdec, hj⟩ := fetchInstr_of_completes hin hc
    obtain rfl : i = j := Option.some.inj (hfetch.symm.trans hj)
    rw [finishFrame_of_decode hdec]
    exact .decoder (.complete hin (state_of_completes hc) hfull hc hbytes)
  · exact .encoder (.send hin he hbs hfits)
  · exact .encoder (.reject hin he)

theorem handleEvent_effect {s t : State} (hfetch : fetchInstr s = none) (h : handleEvent s = .next t) :
    StepEffect s t := by
  rcases handleEvent_cases h with ⟨hin, rfl⟩ | ⟨rest, hin, hd, rfl⟩ | ⟨b, rest, hin, hd, hfull, rfl⟩ |
    ⟨b, rest, hin, hd, hfull, rfl⟩ | ⟨ev, rest, hin, ⟨hd, rfl⟩ | ⟨he, hev⟩, rfl⟩ | ⟨rest, hin, hd, rfl⟩ |
    ⟨rest, hin, hd, hidx, rfl⟩ | ⟨rest, hin, hd, rfl⟩ | ⟨rest, hin, he, rfl⟩ | ⟨rec, rest, hin, he, rfl⟩ |
    ⟨rest, hin, he, rfl⟩ | ⟨rest, hin, rfl⟩ | ⟨b, rest, hin, hd, hfull, rfl⟩
  · exact .wait hin
  · exact .decoder (.start hin (by rcases hd with hd | hd | hd <;> rw [hd] <;> rfl))
  · exact .decoder (onHeaderByte_effect hin hd hfull)
  · refine .decoder (.collect hin hd hfull (Bool.eq_false_iff.mpr fun hc => ?_))
    obtain ⟨op, pay, i, later, -, -, hi⟩ := fetchInstr_of_completes hin hc
    exact absurd (hfetch.symm.trans hi) (by simp)
  · exact .decoder (.drainEos hin hd)
  · exact .encoder (.drain hin hev he)
  · exact .decoder (.finish hin hd)
  · exact .decoder (.shortHeader hin hd hidx)
  · exact .decoder (.shortFrame hin hd)
  · exact .encoder (.start hin (by rcases he with he | he | he <;> rw [he] <;> rfl))
  · exact .encoder (.reject hin he)
  · exact .encoder (.finish hin he)
  · exact .reset hin
  · exact .decoder (.drainByte hin hd hfull)

/-- The inversion of `step`. -/
theorem step_effect {s t : State} (h : step s = .next t) : StepEffect s t := by
  rcases step_cases h with ⟨i, hfetch, hexec⟩ | ⟨hfetch, hevent⟩
  · exact exec_effect hfetch hexec
  · exact handleEvent_effect hfetch hevent

/-- The DU's steps leave the EU's side as it is. -/
theorem DecoderEffect.sameEncoderSide {s t : State} (h : DecoderEffect s t) : SameEncoderSide s t := by
  cases h <;> exact ⟨rfl, rfl, rfl, rfl⟩

/-- The EU's steps leave the DU's side as it is. -/
theorem EncoderEffect.sameDecoderSide {s t : State} (h : EncoderEffect s t) : SameDecoderSide s t := by
  cases h with
  | send => exact ⟨sendFrame_rom _ _ _, sendFrame_d _ _ _, sendFrame_sIn _ _ _, sendFrame_dOut _ _ _⟩
  | start | reject | drain | finish => exact ⟨rfl, rfl, rfl, rfl⟩

/-- Settles O49. -/
theorem stepKeepsRom : Obligations.StepKeepsRom := by
  intro s t h
  cases step_effect h with
  | wait => rfl
  | decoder h => exact h.sameEncoderSide.1
  | encoder h => exact h.sameDecoderSide.1
  | reset => rfl

end Sys2Proof.Machine

/-! The invariant of both units (10_state R23 to R29; 20_memory R50 to R52): each operation keeps the part of it that
speaks of its fields, and `StepEffect` assembles the parts. -/

namespace Sys2Proof.Machine

/-! ### Counters within `MAX_STREAM_LEN` do not wrap (70_reset_and_hazards R287) -/

theorem cursor_lt_of_not_full {s : State} (h : streamFull s = false) : s.d.cursor.toNat < maxStreamLen := by
  have hne : s.d.cursor.toNat ≠ maxStreamLen := by simpa [streamFull] using h
  have hlt := s.d.cursor.isLt
  unfold maxStreamLen at *
  omega

theorem not_full_of_cursor_lt {s : State} (h : s.d.cursor.toNat < maxStreamLen) : streamFull s = false := by
  simpa [streamFull] using h.ne

theorem count_toNat_succ {c : Count} (h : c.toNat < maxStreamLen) : (c + 1).toNat = c.toNat + 1 := by
  unfold maxStreamLen at h
  bv_omega

theorem count_ne_zero_iff {c : Count} : c ≠ 0 ↔ c.toNat ≠ 0 := BitVec.toNat_ne_iff_ne.symm

/-! ### The fields of the DU agree (10_state R23 to R28) -/

theorem duConsistent_afterReset (r : Rom) : DuConsistent r .afterReset := by
  constructor
  case curLen_eq => exact (len_zero r).symm
  all_goals decide

theorem duConsistent_started (r : Rom) : DuConsistent r { DecoderUnit.afterReset with state := .hdr } := by
  constructor
  case curLen_eq => exact (len_zero r).symm
  all_goals decide

section
variable {r : Rom} {d : DecoderUnit}

/-- What the fields have to meet between frames. -/
theorem DuConsistent.of_opc (hd : d.state = .opc) (hlen : d.curLen.toNat = r.len d.curOp) (herr : d.err = 0)
    (hcur : 4 ≤ d.cursor.toNat) (hver : d.versionValid = true) (hrec : d.reccount.toNat ≤ d.cursor.toNat) :
    DuConsistent r d := by
  constructor <;> simp [hd, hlen, herr, hcur, hver, hrec]

/-- What the fields have to meet inside a frame. -/
theorem DuConsistent.of_pay (hd : d.state = .pay) (hlen : d.curLen.toNat = r.len d.curOp) (herr : d.err = 0)
    (hopen : d.payIdx.toNat + 1 < d.curLen.toNat) (hcur : d.cursor.toNat = d.frameBase.toNat + 1 + d.payIdx.toNat)
    (hbase : 4 ≤ d.frameBase.toNat) (hver : d.versionValid = true) (hrec : d.reccount.toNat ≤ d.cursor.toNat) :
    DuConsistent r d := by
  constructor <;> simp [hd, hlen, herr, hcur, hver, hbase, hcur ▸ hrec, hlen ▸ hopen]

theorem DuConsistent.tagByte (h : DuConsistent r d) (hd : d.state = .hdr) (hidx : d.hdrIdx ≠ 3) :
    DuConsistent r { d with hdrIdx := d.hdrIdx + 1, cursor := d.cursor + 1 } := by
  have hcur := h.hdr_cursor hd
  have hidx' : (d.hdrIdx + 1).toNat = d.hdrIdx.toNat + 1 := by bv_omega
  have hcur' : (d.cursor + 1).toNat = d.cursor.toNat + 1 := by bv_omega
  have hrec := h.records_bytes
  exact { h with
    hdr_cursor := fun _ => by dsimp only; omega
    opc_cursor := fun hopc => absurd (hd.symm.trans hopc) (by decide)
    pay_cursor := fun hpay => absurd (hd.symm.trans hpay) (by decide)
    records_bytes := by dsimp only; omega }

theorem DuConsistent.captureVersion (h : DuConsistent r d) (hd : d.state = .hdr) (hidx : d.hdrIdx = 3) (b : Byte) :
    DuConsistent r (captureVersion b d) := by
  have hcur : d.cursor.toNat = 3 := by rw [h.hdr_cursor hd, hidx]; rfl
  have hrec : d.reccount.toNat ≤ 4 := by have := h.records_bytes; omega
  exact .of_opc rfl h.curLen_eq (h.err_zero (by simp [hd])) (show 4 ≤ (4 : Count).toNat by decide) rfl hrec

/-- Raising one of the DU's two errors (R154). -/
theorem DuConsistent.raise (h : DuConsistent r d) {code : Status} (hcode : code = .errHeader ∨ code = .errTruncated) :
    DuConsistent r { d with err := statusCode code, state := .err } := by
  have herr : statusCode code = 1 ∨ statusCode code = 2 := by
    rcases hcode with rfl | rfl
    · exact .inl rfl
    · exact .inr rfl
  constructor
  case err_code => exact fun _ => herr
  case version_zero => exact h.version_zero
  all_goals simp [h.curLen_eq, h.records_bytes]

theorem DuConsistent.finish (h : DuConsistent r d) (hd : d.state ≠ .err) :
    DuConsistent r { d with state := .done } := by
  constructor
  case version_zero => exact h.version_zero
  all_goals simp [h.curLen_eq, h.records_bytes, h.err_zero hd]

/-- An opcode byte starts a frame at the cursor (R148). -/
theorem DuConsistent.latchOpcode (h : DuConsistent r d) (hd : d.state = .opc) (hlt : d.cursor.toNat < maxStreamLen)
    (b : Byte) :
    DuConsistent r { latchOpcode r b d with state := if r.len b = 1 then .opc else .pay } := by
  have hcur := h.opc_cursor hd
  have hcur' : (d.cursor + 1).toNat = d.cursor.toNat + 1 := count_toNat_succ hlt
  have hrec : d.reccount.toNat ≤ (d.cursor + 1).toNat := by have := h.records_bytes; omega
  have herr : d.err = 0 := h.err_zero (by simp [hd])
  have hver := h.version_known (.inl hd)
  have hlen : (BitVec.ofNat 3 (r.len b)).toNat = r.len b := toNat_ofNat_len r b
  by_cases hone : r.len b = 1
  · exact .of_opc (if_pos hone) hlen herr (by simp only [Machine.latchOpcode]; omega) hver hrec
  · have hlong : 1 < r.len b := by have := len_cases r b; omega
    exact .of_pay (if_neg hone) hlen herr (hlong.trans_eq hlen.symm) hcur' hcur hver hrec

/-- The byte at `d.pay_idx` is the last of its frame exactly when `LEN - 1` bytes have then been collected (R150). -/
theorem last_payload_iff {idx len : BitVec 3} (h : idx.toNat + 1 < len.toNat) :
    idx + 1 = len - 1 ↔ idx.toNat + 2 = len.toNat := by
  constructor <;> intro <;> bv_omega

/-- A payload byte moves the cursor and the payload index on together (R150). -/
theorem DuConsistent.latchPayload (h : DuConsistent r d) (hd : d.state = .pay) (hlt : d.cursor.toNat < maxStreamLen)
    (b : Byte) :
    DuConsistent r { latchPayload b d with state := if d.payIdx + 1 = d.curLen - 1 then .opc else .pay } := by
  have hopen := h.pay_open hd
  have hbase := h.pay_base hd
  have hcur : d.cursor.toNat = d.frameBase.toNat + 1 + d.payIdx.toNat := h.pay_cursor hd
  have hcur' : (d.cursor + 1).toNat = d.cursor.toNat + 1 := count_toNat_succ hlt
  have hidx' : (d.payIdx + 1).toNat = d.payIdx.toNat + 1 := by bv_omega
  have hrec : d.reccount.toNat ≤ (d.cursor + 1).toNat := by have := h.records_bytes; omega
  have herr : d.err = 0 := h.err_zero (by simp [hd])
  have hver := h.version_known (.inr hd)
  by_cases hlast : d.payIdx + 1 = d.curLen - 1
  · exact .of_opc (if_pos hlast) h.curLen_eq herr (by simp only [Machine.latchPayload]; omega) hver hrec
  · have hmore : d.payIdx.toNat + 2 ≠ d.curLen.toNat := mt (last_payload_iff hopen).mpr hlast
    refine .of_pay (if_neg hlast) h.curLen_eq herr ?_ ?_ hbase hver hrec <;> simp only [Machine.latchPayload] <;> omega

/-- A record is counted once a byte more than the records counted has been taken (R152). -/
theorem DuConsistent.countRecord (h : DuConsistent r d) (hlt : d.reccount.toNat < d.cursor.toNat) :
    DuConsistent r { d with reccount := d.reccount + 1 } := by
  have hrec : (d.reccount + 1).toNat ≤ d.cursor.toNat := by bv_omega
  exact { h with records_bytes := hrec }

end

/-! ### Collecting and completing a frame -/

theorem collectByte_d_of_opc {s : State} (hd : s.d.state = .opc) (b : Byte) :
    (collectByte b s).d = { latchOpcode s.rom b s.d with state := if s.rom.len b = 1 then .opc else .pay } := by
  simp [latchByte, frameCompletes, hd]

theorem collectByte_d_of_pay {s : State} (hd : s.d.state = .pay) (b : Byte) :
    (collectByte b s).d =
      { latchPayload b s.d with state := if s.d.payIdx + 1 = s.d.curLen - 1 then .opc else .pay } := by
  simp [latchByte, frameCompletes, hd]

section
variable {s : State} (hd : s.d.state = .opc ∨ s.d.state = .pay) (b : Byte)
include hd

theorem collectByte_cursor : (collectByte b s).d.cursor = s.d.cursor + 1 := by
  rcases hd with hd | hd
  · rw [collectByte_d_of_opc hd]; rfl
  · rw [collectByte_d_of_pay hd]; rfl

theorem collectByte_reccount : (collectByte b s).d.reccount = s.d.reccount := by
  rcases hd with hd | hd
  · rw [collectByte_d_of_opc hd]; rfl
  · rw [collectByte_d_of_pay hd]; rfl

theorem DuConsistent.collect (h : DuConsistent s.rom s.d) (hfull : streamFull s = false) :
    DuConsistent s.rom (collectByte b s).d := by
  have hlt := cursor_lt_of_not_full hfull
  rcases hd with hd | hd
  · rw [collectByte_d_of_opc hd]
    exact h.latchOpcode hd hlt b
  · rw [collectByte_d_of_pay hd]
    exact h.latchPayload hd hlt b

theorem DuConsistent.complete (h : DuConsistent s.rom s.d) (hfull : streamFull s = false) (op : Byte)
    (pay : List Byte) : DuConsistent s.rom (completeFrame op pay b s).d := by
  refine (h.collect hd b hfull).countRecord ?_
  rw [collectByte_reccount hd, collectByte_cursor hd, count_toNat_succ (cursor_lt_of_not_full hfull)]
  have hrec := h.records_bytes
  omega

end

/-- Every step on an event of the DU keeps its fields in agreement. -/
theorem DuConsistent.step {s t : State} (h : DuConsistent s.rom s.d) (heff : DecoderEffect s t) :
    DuConsistent t.rom t.d := by
  cases heff with
  | start => exact duConsistent_started s.rom
  | tagByte _ hd _ hidx => exact h.tagByte hd hidx
  | tagMismatch => exact h.raise (.inl rfl)
  | versionByte _ hd _ hidx => exact h.captureVersion hd hidx _
  | collect _ hd hfull => exact h.collect hd _ hfull
  | complete _ hd hfull => exact h.complete hd _ hfull _ _
  | drainByte => exact h
  | drainEos => exact h
  | finish _ hd => exact h.finish (by rcases hd with ⟨hd, -⟩ | hd <;> rw [hd] <;> decide)
  | shortHeader => exact h.raise (.inl rfl)
  | shortFrame => exact h.raise (.inr rfl)

/-! ### The input stream (20_memory R51) -/

section
variable {s t : State}

/-- Nothing received. -/
theorem InputContiguous.empty (hin : t.sIn = []) (hcur : t.d.cursor = 0) : InputContiguous t := by
  constructor <;> simp [received, hin, hcur]

/-- No byte taken and the cursor kept. -/
theorem InputContiguous.keep (h : InputContiguous s) (hin : t.sIn = s.sIn) (hcur : t.d.cursor = s.d.cursor)
    (hstate : t.d.state ≠ .err → s.d.state ≠ .err) : InputContiguous t := by
  have hrcv : received t = received s := congrArg List.length hin
  exact
    { offsets := by rw [hin, hrcv]; exact h.offsets
      fits := by rw [hrcv]; exact h.fits
      cursor_eq := fun hne => by rw [hcur, hrcv]; exact h.cursor_eq (hstate hne)
      cursor_le := by rw [hcur, hrcv]; exact h.cursor_le }

/-- The next byte received, the cursor moved past it or, in `D_ERR`, left behind. -/
theorem InputContiguous.receive (h : InputContiguous s) {b : Byte} (hlt : received s < maxStreamLen)
    (hin : t.sIn = Memory.write s.sIn (received s) b)
    (hcur : t.d.cursor.toNat = received s + 1 ∨ t.d.state = .err ∧ t.d.cursor = s.d.cursor) : InputContiguous t := by
  have hoff : t.sIn.map Prod.fst = List.range (received s + 1) := hin ▸ write_range s.sIn (received s) b h.offsets
  have hrcv : received t = received s + 1 := by
    rw [received, ← List.length_map Prod.fst, hoff, List.length_range]
  have hle := h.cursor_le
  constructor
  case offsets => rw [hoff, hrcv]
  case fits => omega
  case cursor_eq =>
    intro hne
    rcases hcur with hcur | ⟨herr, -⟩
    · rw [hcur, hrcv]
    · exact absurd herr hne
  case cursor_le =>
    rcases hcur with hcur | ⟨-, hcur⟩
    · omega
    · rw [hcur]; omega

/-- A byte taken at the cursor (R147, R148, R150). -/
theorem InputContiguous.take (h : InputContiguous s) (hd : s.d.state ≠ .err) (hfull : streamFull s = false) {b : Byte}
    (hin : t.sIn = Memory.write s.sIn s.d.cursor.toNat b)
    (hcur : t.d.cursor.toNat = s.d.cursor.toNat + 1 ∨ t.d.state = .err ∧ t.d.cursor = s.d.cursor) :
    InputContiguous t := by
  have hlt := cursor_lt_of_not_full hfull
  rw [h.cursor_eq hd] at hin hcur hlt
  exact h.receive hlt hin hcur

/-- Every step on an event of the DU keeps the offsets of the input consecutive. -/
theorem InputContiguous.step (h : InputContiguous s) (hdu : DuConsistent s.rom s.d) (heff : DecoderEffect s t) :
    InputContiguous t := by
  have hsucc (hfull : streamFull s = false) : (s.d.cursor + 1).toNat = s.d.cursor.toNat + 1 :=
    count_toNat_succ (cursor_lt_of_not_full hfull)
  have hframe (hd : s.d.state = .opc ∨ s.d.state = .pay) : s.d.state ≠ .err := by
    rcases hd with hd | hd <;> simp [hd]
  cases heff with
  | start => exact .empty rfl rfl
  | tagByte _ hd hfull => exact h.take (by simp [hd]) hfull rfl (.inl (hsucc hfull))
  | tagMismatch _ hd hfull => exact h.take (by simp [hd]) hfull rfl (.inr ⟨rfl, rfl⟩)
  | versionByte _ hd hfull hidx =>
    have hcur : s.d.cursor.toNat = 3 := by rw [hdu.hdr_cursor hd, hidx]; rfl
    exact h.take (by simp [hd]) hfull rfl (.inl (by rw [hcur]; rfl))
  | collect _ hd hfull =>
    exact h.take (hframe hd) hfull rfl (.inl (by rw [collectByte_cursor hd, hsucc hfull]))
  | complete _ hd hfull =>
    refine h.take (hframe hd) hfull rfl (.inl ?_)
    exact (congrArg BitVec.toNat (collectByte_cursor hd _)).trans (hsucc hfull)
  | drainByte _ hd hfull =>
    have hlt : received s < maxStreamLen := by simpa [drainFull] using hfull
    exact h.receive hlt rfl (.inr ⟨hd, rfl⟩)
  | drainEos => exact h.keep rfl rfl id
  | finish _ hd => exact h.keep rfl rfl fun _ => by rcases hd with ⟨hd, -⟩ | hd <;> simp [hd]
  | shortHeader => exact h.keep rfl rfl fun hne => absurd rfl hne
  | shortFrame => exact h.keep rfl rfl fun hne => absurd rfl hne

end

/-! ### The fields of the EU agree (10_state R29) and the output stream (20_memory R50, R52) -/

theorem euConsistent_afterReset : EuConsistent .afterReset := by constructor <;> decide

theorem euConsistent_started :
    EuConsistent { EncoderUnit.afterReset with state := .run, bytecount := 4 } := by constructor <;> decide

theorem ope_length {o : Operand} {p : List Byte × Bool} (h : ope o = some p) : p.1.length = 2 := by
  obtain ⟨sc, -, rfl⟩ := Option.map_eq_some_iff.mp h
  rfl

theorem clampDiags_length_le (o : Operand) : (clampDiags o).length ≤ 1 := by
  unfold clampDiags
  split_ifs <;> simp

/-- A frame is longer than two bytes for each of its clamp events (42_frame_encoder R180). -/
theorem bodyClamps_lt_length {op : Byte} {body : Body} {bs : List Byte} (h : encBody op body = some bs) :
    2 * (bodyClamps body).length < bs.length := by
  cases body with
  | z => cases h; simp [bodyClamps]
  | w v => cases h; simp [bodyClamps]
  | o a =>
    obtain ⟨pa, ha, rfl⟩ := Option.map_eq_some_iff.mp h
    have hlen := ope_length ha
    have hle := clampDiags_length_le (Field.operand a)
    simp only [bodyClamps, List.length_cons]
    omega
  | t a b =>
    simp only [encBody] at h
    split at h
    · next pa pb ha hb =>
      cases h
      have hlena := ope_length ha
      have hlenb := ope_length hb
      have hlea := clampDiags_length_le (Field.operand a)
      have hleb := clampDiags_length_le (Field.operand b)
      simp only [bodyClamps, List.length_append, List.length_cons]
      omega
    · cases h

section
variable (bs : List Byte) (gs : List Diag) (s : State)

@[simp] theorem sendFrame_e_state : (sendFrame bs gs s).e.state = s.e.state := by simp [sendFrame]

@[simp] theorem sendFrame_e_err : (sendFrame bs gs s).e.err = s.e.err := by simp [sendFrame]

@[simp] theorem sendFrame_e_bytecount :
    (sendFrame bs gs s).e.bytecount = s.e.bytecount + BitVec.ofNat 32 bs.length := by simp [sendFrame]

@[simp] theorem sendFrame_e_reccount : (sendFrame bs gs s).e.reccount = s.e.reccount + 1 := by simp [sendFrame]

@[simp] theorem sendFrame_e_clamped : (sendFrame bs gs s).e.clamped = (s.e.clamped || !gs.isEmpty) := by
  simp [sendFrame, noteClamps_e_clamped]

@[simp] theorem sendFrame_e_clampcount :
    (sendFrame bs gs s).e.clampcount = s.e.clampcount + BitVec.ofNat 32 gs.length := by
  simp [sendFrame, noteClamps_e_clampcount]

end

section
variable {s t : State}

/-- The bytes of a frame that fits are counted without wrapping (70_reset_and_hazards R287). -/
theorem sendFrame_bytecount_toNat {bs : List Byte} (hfits : outputFits s bs.length = true) (gs : List Diag) :
    (sendFrame bs gs s).e.bytecount.toNat = s.e.bytecount.toNat + bs.length := by
  have hle : s.e.bytecount.toNat + bs.length ≤ 4294967295 := of_decide_eq_true hfits
  rw [sendFrame_e_bytecount]
  simp only [BitVec.toNat_add, BitVec.toNat_ofNat]
  omega

theorem EuConsistent.send (h : EuConsistent s.e) (he : s.e.state = .run) {bs : List Byte} {gs : List Diag}
    (hfits : outputFits s bs.length = true) (hgs : 2 * gs.length < bs.length) :
    EuConsistent (sendFrame bs gs s).e := by
  have hbytes := sendFrame_bytecount_toNat hfits gs
  have hlt := (sendFrame bs gs s).e.bytecount.isLt
  have hrec := h.records_bytes
  have hclamps := h.clamps_bytes
  have hrec' : (sendFrame bs gs s).e.reccount.toNat = s.e.reccount.toNat + 1 := by
    rw [sendFrame_e_reccount]
    bv_omega
  have hclamps' : (sendFrame bs gs s).e.clampcount.toNat = s.e.clampcount.toNat + gs.length := by
    rw [sendFrame_e_clampcount]
    simp only [BitVec.toNat_add, BitVec.toNat_ofNat]
    omega
  constructor
  case err_code => simp [he, h.err_code]
  case run_header =>
    have hheader := h.run_header (by simp [he])
    intro _
    omega
  case records_bytes => omega
  case clamps_bytes => omega
  case clamped_iff =>
    have hold : s.e.clamped = true ↔ s.e.clampcount.toNat ≠ 0 := h.clamped_iff.trans count_ne_zero_iff
    rw [count_ne_zero_iff, hclamps', sendFrame_e_clamped, Bool.or_eq_true, hold, Bool.not_eq_true',
      List.isEmpty_eq_false_iff, ← List.length_pos_iff]
    omega

/-- Every step on an event of the EU keeps its fields in agreement. -/
theorem EuConsistent.step (h : EuConsistent s.e) (heff : EncoderEffect s t) : EuConsistent t.e := by
  cases heff with
  | start => exact euConsistent_started
  | send _ he hbs hfits => exact h.send he hfits (bodyClamps_lt_length hbs)
  | reject _ he => exact { h with err_code := rfl, run_header := fun _ => h.run_header (by simp [he]) }
  | drain => exact h
  | finish _ he =>
    exact { h with
      err_code := by simp [h.err_code, he]
      run_header := fun _ => h.run_header (by simp [he]) }

/-- Every step on an event of the EU keeps the offsets of the output consecutive. -/
theorem OutputContiguous.step (h : OutputContiguous s) (heff : EncoderEffect s t) : OutputContiguous t := by
  cases heff with
  | start => exact writes_range header [] 0 rfl
  | send _ _ _ hfits =>
    rw [OutputContiguous, sendFrame_bytecount_toNat hfits, sendFrame_sOut]
    exact writes_range _ _ _ h
  | reject => exact h
  | drain => exact h
  | finish => exact h

/-! ### The whole invariant -/

theorem Inv.afterReset (hrom : s.rom.Admissible) (hd : s.d = .afterReset) (he : s.e = .afterReset) (hin : s.sIn = [])
    (hout : s.sOut = []) : Inv s :=
  { rom_admissible := hrom
    du := hd ▸ duConsistent_afterReset s.rom
    eu := he ▸ euConsistent_afterReset
    input_contiguous := .empty hin (by rw [hd]; rfl)
    output_contiguous := by rw [OutputContiguous, hout, he]; rfl }

theorem Inv.decoder_step (h : Inv s) (heff : DecoderEffect s t) : Inv t := by
  obtain ⟨hrom, he, hout, -⟩ := heff.sameEncoderSide
  exact
    { rom_admissible := hrom ▸ h.rom_admissible
      du := h.du.step heff
      eu := he ▸ h.eu
      input_contiguous := h.input_contiguous.step h.du heff
      output_contiguous := by rw [OutputContiguous, hout, he]; exact h.output_contiguous }

theorem Inv.encoder_step (h : Inv s) (heff : EncoderEffect s t) : Inv t := by
  obtain ⟨hrom, hd, hin, -⟩ := heff.sameDecoderSide
  exact
    { rom_admissible := hrom ▸ h.rom_admissible
      du := by rw [hrom, hd]; exact h.du
      eu := h.eu.step heff
      input_contiguous := h.input_contiguous.keep hin (by rw [hd]) (by rw [hd]; exact id)
      output_contiguous := h.output_contiguous.step heff }

end

/-- Settles O47. -/
theorem invariantAtReset : Obligations.InvariantAtReset :=
  .afterReset config_rom_admissible rfl rfl rfl rfl

/-- Settles O48, unit by unit. -/
theorem stepKeepsInvariant : Obligations.StepKeepsInvariant := by
  intro s t h hstep
  cases step_effect hstep with
  | wait => exact h
  | decoder heff => exact h.decoder_step heff
  | encoder heff => exact h.encoder_step heff
  | reset => exact .afterReset h.rom_admissible rfl rfl rfl rfl

end Sys2Proof.Machine

/-! What each unit emits in a step (10_state R27, R34; 60_exceptions R250): nothing, one record with its diagnostics or
one frame, or one final status on entering a final state. -/

namespace Sys2Proof.Machine

/-! ### The DU's output of a step -/

/-- The events the DU emits in a step from `s` to `t`. -/
inductive DecoderOutput (s t : State) : List DuOut → Prop
  /-- No event, and no final state is entered. -/
  | silent (hstate : t.d.state = s.d.state ∨ t.d.state ≠ .done ∧ t.d.state ≠ .err) : DecoderOutput s t []
  /-- The record of a completed frame, then its diagnostics (41_frame_decoder R152). -/
  | record (fb : Count) (op : Byte) (pay : List Byte) (hstate : t.d.state ≠ .done ∧ t.d.state ≠ .err) :
      DecoderOutput s t (.record (recon s.rom fb op pay).1 :: (recon s.rom fb op pay).2.map .diag)
  /-- A status of the DU, on entering the final state it belongs to (10_state R27). -/
  | finished (st : Status) (hne : t.d.state ≠ s.d.state)
      (hst : (st = .ok ∧ t.d.state = .done) ∨
        ((st = .errHeader ∨ st = .errTruncated) ∧ t.d.state = .err ∧ t.d.err = statusCode st)) :
      DecoderOutput s t [.finished st]

/-- A byte of a frame leaves the DU collecting frames. -/
theorem collectByte_state_not_final (b : Byte) (s : State) :
    (collectByte b s).d.state ≠ .done ∧ (collectByte b s).d.state ≠ .err := by
  rw [collectByte_d]
  split_ifs <;> simp

theorem DecoderEffect.output {s t : State} (h : DecoderEffect s t) :
    ∃ events, t.dOut = s.dOut ++ events ∧ DecoderOutput s t events := by
  have hsilent {u : State} (hout : u.dOut = s.dOut)
      (hstate : u.d.state = s.d.state ∨ u.d.state ≠ .done ∧ u.d.state ≠ .err) :
      ∃ events, u.dOut = s.dOut ++ events ∧ DecoderOutput s u events :=
    ⟨[], hout.trans (List.append_nil _).symm, .silent hstate⟩
  cases h with
  | start => exact hsilent rfl (.inr (by simp))
  | tagByte => exact hsilent rfl (.inl rfl)
  | versionByte => exact hsilent rfl (.inr (by simp [captureVersion]))
  | collect => exact hsilent rfl (.inr (collectByte_state_not_final _ s))
  | drainByte => exact hsilent rfl (.inl rfl)
  | drainEos => exact hsilent rfl (.inl rfl)
  | complete => exact ⟨_, rfl, .record _ _ _ (collectByte_state_not_final _ s)⟩
  | tagMismatch _ hd => exact ⟨_, rfl, .finished _ (by simp [hd]) (.inr ⟨.inl rfl, rfl, rfl⟩)⟩
  | finish _ hd =>
    exact ⟨_, rfl, .finished _ (by rcases hd with ⟨hd, -⟩ | hd <;> simp [hd]) (.inl ⟨rfl, rfl⟩)⟩
  | shortHeader _ hd => exact ⟨_, rfl, .finished _ (by simp [hd]) (.inr ⟨.inl rfl, rfl, rfl⟩)⟩
  | shortFrame _ hd => exact ⟨_, rfl, .finished _ (by simp [hd]) (.inr ⟨.inr rfl, rfl, rfl⟩)⟩

/-- What a step appends to the DU's events is one of the DU's outputs. -/
theorem decoderOutput_of_step {s t : State} {events : List DuOut} (h : step s = .next t)
    (hout : t.dOut = s.dOut ++ events) : DecoderOutput s t events := by
  have hexists : ∃ events', t.dOut = s.dOut ++ events' ∧ DecoderOutput s t events' := by
    cases step_effect h with
    | wait => exact ⟨[], (List.append_nil _).symm, .silent (.inl rfl)⟩
    | decoder heff => exact heff.output
    | encoder heff =>
      obtain ⟨-, hd, -, hdOut⟩ := heff.sameDecoderSide
      exact ⟨[], hdOut.trans (List.append_nil _).symm, .silent (.inl (by rw [hd]))⟩
    | reset => exact ⟨[], (List.append_nil _).symm, .silent (.inr (by simp [DecoderUnit.afterReset]))⟩
  obtain ⟨events', hout', houtput⟩ := hexists
  exact List.append_cancel_left (hout'.symm.trans hout) ▸ houtput

/-! ### The EU's output of a step -/

/-- The events the EU emits in a step from `s` to `t`. -/
inductive EncoderOutput (s t : State) : List EuOut → Prop
  /-- Bytes and clamp diagnostics (42_frame_encoder R181, R182), and no final state is entered. -/
  | frame (bs : List Byte) (gs : List Diag)
      (hstate : t.e.state = s.e.state ∨ t.e.state ≠ .done ∧ t.e.state ≠ .err) :
      EncoderOutput s t (bs.map .byte ++ gs.map .diag)
  /-- A status of the EU, on entering the final state it belongs to (10_state R27). -/
  | finished (st : Status) (hne : t.e.state ≠ s.e.state)
      (hst : (st = .ok ∧ t.e.state = .done) ∨ (st = .errRecord ∧ t.e.state = .err ∧ t.e.err = statusCode st)) :
      EncoderOutput s t [.finished st]

theorem EncoderOutput.silent {s t : State} (hstate : t.e.state = s.e.state ∨ t.e.state ≠ .done ∧ t.e.state ≠ .err) :
    EncoderOutput s t [] := .frame [] [] hstate

theorem EncoderEffect.output {s t : State} (h : EncoderEffect s t) :
    ∃ events, t.eOut = s.eOut ++ events ∧ EncoderOutput s t events := by
  cases h with
  | start => exact ⟨_, rfl, .frame header [] (.inr (by simp))⟩
  | send =>
    exact ⟨_, (sendFrame_eOut _ _ s).trans (List.append_assoc _ _ _), .frame _ _ (.inl (sendFrame_e_state _ _ s))⟩
  | reject _ he => exact ⟨_, rfl, .finished _ (by simp [he]) (.inr ⟨rfl, rfl, rfl⟩)⟩
  | drain => exact ⟨[], (List.append_nil _).symm, .silent (.inl rfl)⟩
  | finish _ he => exact ⟨_, rfl, .finished _ (by simp [he]) (.inl ⟨rfl, rfl⟩)⟩

/-- What a step appends to the EU's events is one of the EU's outputs. -/
theorem encoderOutput_of_step {s t : State} {events : List EuOut} (h : step s = .next t)
    (hout : t.eOut = s.eOut ++ events) : EncoderOutput s t events := by
  have hexists : ∃ events', t.eOut = s.eOut ++ events' ∧ EncoderOutput s t events' := by
    cases step_effect h with
    | wait => exact ⟨[], (List.append_nil _).symm, .silent (.inl rfl)⟩
    | decoder heff =>
      obtain ⟨-, he, -, heOut⟩ := heff.sameEncoderSide
      exact ⟨[], heOut.trans (List.append_nil _).symm, .silent (.inl (by rw [he]))⟩
    | encoder heff => exact heff.output
    | reset => exact ⟨[], (List.append_nil _).symm, .silent (.inr (by simp [EncoderUnit.afterReset]))⟩
  obtain ⟨events', hout', houtput⟩ := hexists
  exact List.append_cancel_left (hout'.symm.trans hout) ▸ houtput

/-! ### Final states and statuses (10_state R27) -/

theorem DecoderOutput.status {s t : State} {events : List DuOut} (h : DecoderOutput s t events) {st : Status}
    (hmem : .finished st ∈ events) :
    t.d.state ≠ s.d.state ∧ ((st = .ok ∧ t.d.state = .done) ∨
      ((st = .errHeader ∨ st = .errTruncated) ∧ t.d.state = .err ∧ t.d.err = statusCode st)) := by
  cases h with
  | silent => simp at hmem
  | record => simp at hmem
  | finished st' hne hst =>
    obtain rfl : st = st' := by simpa using hmem
    exact ⟨hne, hst⟩

theorem DecoderOutput.only_status {s t : State} {events : List DuOut} (h : DecoderOutput s t events)
    (hne : t.d.state ≠ s.d.state) (hfinal : t.d.state = .done ∨ t.d.state = .err) :
    ∃ st, events = [.finished st] := by
  cases h with
  | silent hstate => exact absurd hfinal (by simpa [hne] using hstate)
  | record _ _ _ hstate => exact absurd hfinal (by simpa using hstate)
  | finished st => exact ⟨st, rfl⟩

theorem EncoderOutput.status {s t : State} {events : List EuOut} (h : EncoderOutput s t events) {st : Status}
    (hmem : .finished st ∈ events) :
    t.e.state ≠ s.e.state ∧ ((st = .ok ∧ t.e.state = .done) ∨
      (st = .errRecord ∧ t.e.state = .err ∧ t.e.err = statusCode st)) := by
  cases h with
  | frame => simp at hmem
  | finished st' hne hst =>
    obtain rfl : st = st' := by simpa using hmem
    exact ⟨hne, hst⟩

theorem EncoderOutput.only_status {s t : State} {events : List EuOut} (h : EncoderOutput s t events)
    (hne : t.e.state ≠ s.e.state) (hfinal : t.e.state = .done ∨ t.e.state = .err) :
    ∃ st, events = [.finished st] := by
  cases h with
  | frame _ _ hstate => exact absurd hfinal (by simpa [hne] using hstate)
  | finished st => exact ⟨st, rfl⟩

/-- Settles O52, by what each unit can emit in a step. -/
theorem statusesBelongToTheirUnit : Obligations.StatusesBelongToTheirUnit := by
  intro s t h
  refine ⟨fun events hout => ?_, fun events hout => ?_⟩
  · have houtput := decoderOutput_of_step h hout
    exact ⟨fun _ => houtput.status, houtput.only_status⟩
  · have houtput := encoderOutput_of_step h hout
    exact ⟨fun _ => houtput.status, houtput.only_status⟩

/-! ### Emitted records are canonical (10_state R34) -/

theorem svd_mag_lt (b : Byte) : (svd b).mag < 128 := by
  revert b
  decide

/-- The operand decode stays within the kinds and the seven magnitude bits, whatever the bytes (R119, R120). -/
theorem opd_bounds (k s : Byte) : (opd k s).1.sc.mag < 128 ∧ (opd k s).1.kind ≤ 0xA := by
  have hkind : ∀ k : Byte, k ≤ 0x0A → k.setWidth 4 ≤ (0xA : Kind) := by decide
  unfold opd
  split_ifs with hk
  · exact ⟨svd_mag_lt s, hkind k hk⟩
  · decide

theorem opAdmitted_varOp (op : Byte) : opAdmitted (varOp op) = true := by
  unfold varOp opAdmitted
  split_ifs with hknown
  · simp [hknown]
  · simp

section
variable (r : Rom) (fb : Count) (op : Byte) (pay : List Byte)

theorem recon_op : (recon r fb op pay).1.op = varOp op := by
  cases hs : r.shape op <;> simp [recon, hs, skel]

theorem recon_a : (recon r fb op pay).1.a =
    if r.shape op = .z ∨ r.shape op = .w then zeroOperand else (opd (pay.getD 0 0) (pay.getD 1 0)).1 := by
  cases hs : r.shape op <;> simp [recon, hs, skel]

theorem recon_b : (recon r fb op pay).1.b =
    if r.shape op ≠ .t then zeroOperand else (opd (pay.getD 2 0) (pay.getD 3 0)).1 := by
  cases hs : r.shape op <;> simp [recon, hs, skel]

theorem recon_w : (recon r fb op pay).1.w =
    if r.shape op ≠ .w then 0 else wideDec (pay.getD 0 0) (pay.getD 1 0) := by
  cases hs : r.shape op <;> simp [recon, hs, skel]

/-- `RECON` fills in the fields of the opcode's shape, within their bounds, and leaves the others zero (R142, R144). -/
theorem recon_canonical : CanonicalRecord r (recon r fb op pay).1 := by
  have hshape : r.shape (recon r fb op pay).1.op = r.shape op := by rw [recon_op, shape_varOp]
  obtain ⟨hzmag, hzkind⟩ : zeroOperand.sc.mag < 128 ∧ zeroOperand.kind ≤ 0xA := by decide
  obtain ⟨hamag, hakind⟩ := opd_bounds (pay.getD 0 0) (pay.getD 1 0)
  obtain ⟨hbmag, hbkind⟩ := opd_bounds (pay.getD 2 0) (pay.getD 3 0)
  constructor
  case op_admitted => rw [recon_op]; exact opAdmitted_varOp op
  case a_unused => rw [hshape, recon_a]; exact fun h => if_pos h
  case b_unused => rw [hshape, recon_b]; exact fun h => if_pos h
  case w_unused => rw [hshape, recon_w]; exact fun h => if_pos h
  case mags =>
    rw [recon_a, recon_b]
    constructor <;> split_ifs <;> assumption
  case kinds =>
    rw [recon_a, recon_b]
    constructor <;> split_ifs <;> assumption

end

/-- Settles O33: the only record of a step is the reconstruction of a completed frame. -/
theorem emittedRecordsAreCanonical : Obligations.EmittedRecordsAreCanonical := by
  intro s t events x h hout hmem
  cases decoderOutput_of_step h hout with
  | silent => simp at hmem
  | record fb op pay =>
    obtain rfl : x = (recon s.rom fb op pay).1 := by simpa using hmem
    exact recon_canonical s.rom fb op pay
  | finished => simp at hmem

/-! ### The bytes of a frame (41_frame_decoder R148, R150) -/

/-- A byte written at an offset of the input is the only change to it (20_memory R51). -/
theorem inByte_of_write {s t : State} {a : Nat} {b : Byte} (h : t.sIn = Memory.write s.sIn a b) (c : Nat) :
    t.inByte c = if c = a then some b else s.inByte c := by
  unfold State.inByte
  rw [h]
  split_ifs with hc
  · rw [hc, read_write_same]
  · exact read_write_other _ _ _ _ hc

/-- Settles O36, by whether the opcode byte is the whole frame. -/
theorem opcodeByteEffect : Obligations.OpcodeByteEffect := by
  intro s b rest hin hd hlt
  have hfull := not_full_of_cursor_lt hlt
  have hcollect := collectByte_d_of_opc hd b
  by_cases hone : s.rom.len b = 1
  · have hc : frameCompletes s b = true := by simp [frameCompletes, hd, hone]
    have hbytes : frameBytes s b = [b] := by simp [frameBytes, hd]
    have hbase : (collectByte b s).d.frameBase = s.d.cursor := by rw [hcollect]; rfl
    refine ⟨_, step_of_completes hin hc hfull hbytes, by simp [completeFrame, hin], ⟨rfl, rfl, rfl, rfl⟩,
      inByte_of_write rfl, ?_, ?_⟩
    · rw [completeFrame, emitRecord_d, hcollect, if_pos hone, if_pos hone]
      rfl
    · rw [completeFrame, emitRecord_dOut, hbase, if_pos hone]
      rfl
  · have hc : frameCompletes s b = false := by simp [frameCompletes, hd, hone]
    refine ⟨_, step_of_frame_byte hin (.inl hd) hc hfull, by simp [hin], ⟨rfl, rfl, rfl, rfl⟩,
      inByte_of_write rfl, ?_, ?_⟩
    · simp only [hcollect, hone, if_false]
      rfl
    · rw [if_neg hone, List.append_nil]
      rfl

/-- Settles O37, by whether the byte is the frame's last. -/
theorem payloadByteEffect : Obligations.PayloadByteEffect := by
  intro s b rest hin hd hlt hdu
  dsimp only
  have hfull := not_full_of_cursor_lt hlt
  have hlast := last_payload_iff (hdu.pay_open hd)
  have hcollect := collectByte_d_of_pay hd b
  by_cases hdone : s.d.payIdx.toNat + 2 = s.d.curLen.toNat
  · have hc : frameCompletes s b = true := by simpa [frameCompletes, hd] using hlast.mpr hdone
    have hbytes : frameBytes s b =
        s.d.curOp :: (Pay.set s.d.pay s.d.payIdx b).toList.take (s.d.curLen.toNat - 1) := by
      simp [frameBytes, hd, hdu.curLen_eq]
    have hbase : (collectByte b s).d.frameBase = s.d.frameBase := by rw [hcollect]; rfl
    refine ⟨_, step_of_completes hin hc hfull hbytes, by simp [completeFrame, hin], ⟨rfl, rfl, rfl, rfl⟩,
      inByte_of_write rfl, ?_, ?_⟩
    · simp only [completeFrame, emitRecord_d, hcollect, hlast, hdone, if_true]
      rfl
    · rw [completeFrame, emitRecord_dOut, hbase, if_pos hdone]
      rfl
  · have hc : frameCompletes s b = false := by simpa [frameCompletes, hd] using mt hlast.mp hdone
    refine ⟨_, step_of_frame_byte hin (.inr hd) hc hfull, by simp [hin], ⟨rfl, rfl, rfl, rfl⟩,
      inByte_of_write rfl, ?_, ?_⟩
    · simp only [hcollect, hlast, hdone, if_false]
      rfl
    · rw [if_neg hdone, List.append_nil]
      rfl

/-! ### Reset and the observation words (10_state R28, R30, R37) -/

/-- Settles O42. -/
theorem resetEffect : Obligations.ResetEffect := by
  intro s rest hin
  have hfetch : fetchInstr s = none := by simp [fetchInstr, hin]
  rw [step_of_no_fetch hfetch, handleEvent, hin]
  simp only [resetBlock, consume, hin, List.tail_cons]
  rfl

/-- Settles O46. -/
theorem resetValues : Obligations.ResetValues :=
  ⟨rfl, rfl, by decide, by decide⟩

/-- The word that six fields are laid out in reads each of them back (R28). -/
theorem fields_of_append_six (u : BitVec 16) (v : BitVec 8) (z : BitVec 2) (c : BitVec 1) (x : BitVec 2)
    (y : BitVec 3) :
    let word := u ++ (v ++ (z ++ (c ++ (x ++ y))))
    word.extractLsb' 0 3 = y ∧ word.extractLsb' 3 2 = x ∧ word.getLsbD 5 = c.getLsbD 0 ∧ word.extractLsb' 6 2 = z ∧
      word.extractLsb' 8 8 = v ∧ word.extractLsb' 16 16 = u := by
  -- the fields are taken apart while the widths still stand as sums
  simp (disch := decide) only [BitVec.extractLsb'_append_eq_of_le, BitVec.extractLsb'_append_eq_of_add_le,
    BitVec.getLsbD_append, Nat.reduceSub, BitVec.extractLsb'_eq_self]
  simp

/-- The word that four fields are laid out in reads each of them back (R30). -/
theorem fields_of_append_four (u : BitVec 27) (c : BitVec 1) (x y : BitVec 2) :
    let word := u ++ (c ++ (x ++ y))
    word.extractLsb' 0 2 = y ∧ word.extractLsb' 2 2 = x ∧ word.getLsbD 4 = c.getLsbD 0 ∧
      word.extractLsb' 5 27 = u := by
  -- the fields are taken apart while the widths still stand as sums
  simp (disch := decide) only [BitVec.extractLsb'_append_eq_of_le, BitVec.extractLsb'_append_eq_of_add_le,
    BitVec.getLsbD_append, Nat.reduceSub, BitVec.extractLsb'_eq_self]
  simp

theorem getLsbD_ofBool_zero (b : Bool) : (BitVec.ofBool b).getLsbD 0 = b := by simp

/-- Settles O55. -/
theorem statusWordFields : Obligations.StatusWordFields := by
  refine ⟨fun r d => ?_, fun e => ?_⟩
  · obtain ⟨hstate, herr, hvalid, hpad, hversion, hhigh⟩ :=
      fields_of_append_six 0 d.version 0 (.ofBool d.versionValid) d.err (dStateCode d.state)
    refine ⟨hstate.trans ?_, herr, hvalid.trans (getLsbD_ofBool_zero _), hpad, hversion, hhigh,
      fun hdu hnone => ?_, rfl, rfl⟩
    · cases d.state <;> rfl
    · exact hversion.trans (hdu.version_zero hnone)
  · obtain ⟨hstate, herr, hclamped, hpad⟩ := fields_of_append_four 0 (.ofBool e.clamped) e.err (eStateCode e.state)
    refine ⟨hstate.trans ?_, herr, hclamped.trans (getLsbD_ofBool_zero _), hpad, rfl, rfl, rfl⟩
    cases e.state <;> rfl

end Sys2Proof.Machine

/-! The input byte space at the bytes of the header and in the error states (20_memory R51): the steps on events that
complete no frame, the header check (41_frame_decoder R147), and what is drained (R151). -/

namespace Sys2Proof.Machine

/-! ### Steps on the DU's events that complete no frame -/

/-- A byte that completes no frame is handled on its own. -/
theorem step_of_byte {s : State} {b : Byte} {rest : List HostEvent} (hin : s.input = .byte b :: rest)
    (hc : frameCompletes s b = false) : step s = onByte b s := by
  rw [step_of_no_fetch (by simp [fetchInstr, hin, hc]), handleEvent, hin]

theorem step_of_header_byte {s : State} {b : Byte} {rest : List HostEvent} (hin : s.input = .byte b :: rest)
    (hd : s.d.state = .hdr) (hfull : streamFull s = false) : step s = .next (onHeaderByte b s) := by
  rw [step_of_byte hin (by simp [frameCompletes, hd])]
  simp [onByte, hd, hfull]

theorem step_of_drained_byte {s : State} {b : Byte} {rest : List HostEvent} (hin : s.input = .byte b :: rest)
    (hd : s.d.state = .err) (hlt : received s < maxStreamLen) : step s = .next (drainByte b s) := by
  rw [step_of_byte hin (by simp [frameCompletes, hd])]
  simp [onByte, hd, drainFull, hlt]

theorem step_of_eos {s : State} {rest : List HostEvent} (hin : s.input = .eos :: rest) : step s = onEos s := by
  rw [step_of_no_fetch (by simp [fetchInstr, hin]), handleEvent, hin]

/-- Consuming the event at the head leaves the events after it. -/
theorem consume_eq {s : State} {ev : HostEvent} {rest : List HostEvent} (hin : s.input = ev :: rest) :
    consume s = { s with input := rest } := by
  rw [consume, hin, List.tail_cons]

/-! ### A header byte (41_frame_decoder R147) -/

/-- At an index of the tag, reading the tag's byte and reading it with a default agree. -/
theorem tag_getElem?_eq_some_iff {i : BitVec 2} (hi : i ≠ 3) (b : Byte) :
    tag[i.toNat]? = some b ↔ b = tag.getD i.toNat 0 := by
  have hlt : i.toNat < tag.length := by
    have hlen : tag.length = 3 := rfl
    bv_omega
  rw [List.getElem?_eq_getElem hlt, List.getD_eq_getElem _ _ hlt, Option.some.injEq]
  exact eq_comm

/-- Settles O35, by the three branches of the header check. -/
theorem headerByteEffect : Obligations.HeaderByteEffect := by
  intro s b rest hin hd hlt
  dsimp only
  have hstep := step_of_header_byte hin hd (not_full_of_cursor_lt hlt)
  have htail : s.input.tail = rest := by rw [hin, List.tail_cons]
  refine ⟨fun hidx htag => ?_, fun hidx htag => ?_, fun hidx => ?_⟩
  · rw [onHeaderByte_of_tag hidx ((tag_getElem?_eq_some_iff hidx b).mp htag)] at hstep
    exact ⟨_, hstep, rfl, rfl, htail, ⟨rfl, rfl, rfl, rfl⟩, inByte_of_write rfl⟩
  · rw [onHeaderByte_of_mismatch hidx (mt (tag_getElem?_eq_some_iff hidx b).mpr htag)] at hstep
    exact ⟨_, hstep, rfl, rfl, htail, ⟨rfl, rfl, rfl, rfl⟩, inByte_of_write rfl⟩
  · rw [onHeaderByte_of_version hidx] at hstep
    exact ⟨_, hstep, rfl, rfl, htail, ⟨rfl, rfl, rfl, rfl⟩, inByte_of_write rfl⟩

/-! ### The error states drain (41_frame_decoder R151, 42_frame_encoder R185) -/

theorem step_eos_of_err {s : State} {rest : List HostEvent} (hin : s.input = .eos :: rest) (hd : s.d.state = .err) :
    step s = .next (consume s) := by
  rw [step_of_eos hin, onEos, hd]

theorem step_record_of_err {s : State} {rec : Record} {rest : List HostEvent} (hin : s.input = .record rec :: rest)
    (he : s.e.state = .err) : step s = .next (consume s) := by
  rw [step_of_no_fetch (by simp [fetchInstr, hin, he])]
  simp [handleEvent, hin, onRecord, he]

theorem step_endScript_of_err {s : State} {rest : List HostEvent} (hin : s.input = .endScript :: rest)
    (he : s.e.state = .err) : step s = .next (consume s) := by
  rw [step_of_no_fetch (by simp [fetchInstr, hin])]
  simp [handleEvent, hin, onEndScript, he]

/-- Settles O41. -/
theorem errorStatesDrain : Obligations.ErrorStatesDrain := by
  intro s ev rest hin
  refine ⟨fun b hev hd hlt => ?_, fun hev hd => ?_, fun hev he => ?_⟩
  · subst hev
    exact ⟨_, step_of_drained_byte hin hd hlt, by rw [drainByte_input, hin, List.tail_cons], rfl, rfl,
      ⟨rfl, rfl, rfl, rfl⟩, inByte_of_write rfl⟩
  · subst hev
    rw [step_eos_of_err hin hd, consume_eq hin]
  · rw [← consume_eq hin]
    rcases hev with rfl | ⟨rec, rfl⟩
    · exact step_endScript_of_err hin he
    · exact step_record_of_err hin he

end Sys2Proof.Machine

/-! A whole decode (41_frame_decoder R155, R156). `Delivering` is the host's side: the bytes received, and those still to
come before the one `Eos`; every byte moves one from the second list to the first. What the rest of a run does is an
induction on the bytes to come, in each of the DU's three phases: drained in `D_ERR`, frames, and the header. -/

namespace Sys2Proof.Machine

/-! ### Runs of the block -/

theorem run_succ (M : Host.Core) {s u : M.State} (h : M.step s = .next u) (n : Nat) :
    M.run (n + 1) s = M.run n u := by
  rw [Host.Core.run, h]

/-- `n` steps from `s` consume every event and end in `t`; the DU emits `events`, its stream is then `bytes`, and the
EU's side is untouched. -/
structure RunsTo (n : Nat) (s : State) (bytes : List Byte) (t : State) (events : List DuOut) : Prop where
  run : Sys2Proof.core.run n s = .next t
  input : t.input = []
  out : t.dOut = s.dOut ++ events
  encoder : SameEncoderSide s t
  stored : ∀ a, t.inByte a = bytes[a]?

/-- A run with one step before it. -/
theorem RunsTo.cons {n : Nat} {s u t : State} {bytes : List Byte} {evs events : List DuOut}
    (h : RunsTo n u bytes t events) (hstep : step s = .next u) (hout : u.dOut = s.dOut ++ evs)
    (hsame : SameEncoderSide s u) : RunsTo (n + 1) s bytes t (evs ++ events) := by
  obtain ⟨hrom, he, hsOut, heOut⟩ := hsame
  obtain ⟨hrom', he', hsOut', heOut'⟩ := h.encoder
  exact
    { run := (run_succ Sys2Proof.core hstep n).trans h.run
      input := h.input
      out := by rw [h.out, hout, List.append_assoc]
      encoder := ⟨hrom'.trans hrom, he'.trans he, hsOut'.trans hsOut, heOut'.trans heOut⟩
      stored := h.stored }

/-! ### The host delivers a stream (20_memory R51, 41_frame_decoder R156) -/

/-- In a run of the DU the bytes `pre` have been received, and `rest` and the end of the stream are still to come. -/
structure Delivering (s : State) (pre rest : List Byte) : Prop where
  input : s.input = rest.map .byte ++ [.eos]
  du : DuConsistent s.rom s.d
  contiguous : InputContiguous s
  count : received s = pre.length
  stored : ∀ a, s.inByte a = pre[a]?
  fits : pre.length + rest.length ≤ maxStreamLen

/-- What a step on a byte does to the two ends of the input, whatever the DU makes of the byte. -/
theorem DecoderEffect.of_byte {s t : State} {b : Byte} {rest : List HostEvent} (h : DecoderEffect s t)
    (hin : s.input = .byte b :: rest) :
    t.input = rest ∧
      t.sIn = Memory.write s.sIn (if s.d.state = .err then received s else s.d.cursor.toNat) b := by
  have htail : s.input.tail = rest := by rw [hin, List.tail_cons]
  cases h with
  | start hin' => cases hin.symm.trans hin'
  | tagByte hin' hd | tagMismatch hin' hd | versionByte hin' hd =>
    cases hin.symm.trans hin'
    exact ⟨htail, by rw [hd]; rfl⟩
  | collect hin' hd | complete hin' hd =>
    cases hin.symm.trans hin'
    exact ⟨htail, by rcases hd with hd | hd <;> rw [hd] <;> rfl⟩
  | drainByte hin' hd =>
    cases hin.symm.trans hin'
    exact ⟨htail, by rw [hd]; rfl⟩
  | drainEos hin' | finish hin' | shortHeader hin' | shortFrame hin' => cases hin.symm.trans hin'

/-- Steps on the DU's events are the DU's effects. -/
theorem decoderEffect_of_step {s t : State} {ev : HostEvent} {rest : List HostEvent} (hin : s.input = ev :: rest)
    (hev : ev.toDecoder = true) (h : step s = .next t) : DecoderEffect s t := by
  cases step_effect h with
  | wait hin' => cases hin.symm.trans hin'
  | decoder heff => exact heff
  | encoder heff =>
    cases heff with
    | drain hin' hev' =>
      obtain ⟨rfl, -⟩ := List.cons.inj (hin.symm.trans hin')
      rcases hev' with rfl | ⟨rec, rfl⟩ <;> cases hev
    | start hin' | send hin' | reject hin' | finish hin' =>
      obtain ⟨rfl, -⟩ := List.cons.inj (hin.symm.trans hin')
      cases hev
  | reset hin' =>
    obtain ⟨rfl, -⟩ := List.cons.inj (hin.symm.trans hin')
    cases hev

section
variable {s t : State} {pre rest : List Byte} {b : Byte}

theorem Delivering.input_byte (h : Delivering s pre (b :: rest)) :
    s.input = .byte b :: (rest.map .byte ++ [.eos]) := h.input

theorem Delivering.cursor_eq (h : Delivering s pre rest) (hd : s.d.state ≠ .err) :
    s.d.cursor.toNat = pre.length := (h.contiguous.cursor_eq hd).trans h.count

theorem Delivering.received_lt (h : Delivering s pre (b :: rest)) : received s < maxStreamLen := by
  have hfits := h.fits
  rw [List.length_cons] at hfits
  rw [h.count]
  omega

theorem Delivering.not_full (h : Delivering s pre (b :: rest)) (hd : s.d.state ≠ .err) : streamFull s = false :=
  not_full_of_cursor_lt (by rw [h.contiguous.cursor_eq hd]; exact h.received_lt)

/-- Every byte taken or drained is the next one of the stream (20_memory R51). -/
theorem Delivering.byte (h : Delivering s pre (b :: rest)) (hstep : step s = .next t) :
    Delivering t (pre ++ [b]) rest := by
  have heff := decoderEffect_of_step h.input_byte rfl hstep
  obtain ⟨hin, hwrite⟩ := heff.of_byte h.input_byte
  have hcell : t.sIn = Memory.write s.sIn (received s) b := by
    rw [hwrite]
    split_ifs with hd
    · rfl
    · rw [h.contiguous.cursor_eq hd]
  constructor
  case input => exact hin
  case du => exact h.du.step heff
  case contiguous => exact h.contiguous.step h.du heff
  case count =>
    have hlen := congrArg List.length (write_range s.sIn (received s) b h.contiguous.offsets)
    rw [← hcell, List.length_map, List.length_range] at hlen
    rw [List.length_append, List.length_singleton, ← h.count]
    exact hlen
  case stored =>
    intro a
    rw [inByte_of_write hcell, h.count, h.stored]
    split_ifs with ha
    · rw [ha, List.getElem?_concat_length]
    · rcases Nat.lt_or_gt_of_ne ha with hlt | hgt
      · rw [List.getElem?_append_left hlt]
      · rw [List.getElem?_eq_none (by omega), List.getElem?_eq_none (by simp; omega)]
  case fits =>
    have hfits := h.fits
    simp only [List.length_append, List.length_cons, List.length_nil] at hfits ⊢
    omega

/-- The end of the stream ends the run: the step that consumes it is the last. -/
theorem Delivering.runsTo_eos (h : Delivering s pre []) {evs : List DuOut} (hstep : step s = .next t)
    (hin : t.input = s.input.tail) (hsIn : t.sIn = s.sIn) (hout : t.dOut = s.dOut ++ evs)
    (hsame : SameEncoderSide s t) : RunsTo 1 s pre t evs :=
  { run := run_succ Sys2Proof.core hstep 0
    input := by rw [hin, h.input]; rfl
    out := hout
    encoder := hsame
    stored := fun a => by rw [State.inByte, hsIn]; exact h.stored a }

end

/-! ### Draining (41_frame_decoder R151) -/

/-- After an error the rest of the run changes no field of the DU and emits nothing. -/
theorem runsTo_of_err {s : State} {pre rest : List Byte} (h : Delivering s pre rest) (hd : s.d.state = .err) :
    ∃ t, RunsTo (rest.length + 1) s (pre ++ rest) t [] ∧ t.d = s.d := by
  induction rest generalizing s pre with
  | nil =>
    rw [List.append_nil]
    exact ⟨_, h.runsTo_eos (step_eos_of_err h.input hd) rfl rfl (List.append_nil _).symm ⟨rfl, rfl, rfl, rfl⟩, rfl⟩
  | cons b rest ih =>
    have hstep := step_of_drained_byte h.input_byte hd h.received_lt
    obtain ⟨t, hruns, ht⟩ := ih (h.byte hstep) hd
    rw [List.append_cons]
    exact ⟨t, hruns.cons hstep (List.append_nil _).symm ⟨rfl, rfl, rfl, rfl⟩, ht⟩

/-! ### The frame being received (10_state R26; 41_frame_decoder R148, R150) -/

/-- The bytes of the current frame received so far. -/
def pendingBytes (d : DecoderUnit) : List Byte :=
  match d.state with
  | .pay => d.curOp :: d.pay.toList.take d.payIdx.toNat
  | .idle => []
  | .hdr => []
  | .opc => []
  | .done => []
  | .err => []

theorem pendingBytes_of_opc {d : DecoderUnit} (hd : d.state = .opc) : pendingBytes d = [] := by
  simp [pendingBytes, hd]

theorem pendingBytes_of_pay {d : DecoderUnit} (hd : d.state = .pay) :
    pendingBytes d = d.curOp :: d.pay.toList.take d.payIdx.toNat := by
  simp [pendingBytes, hd]

theorem take_pay_set (p : Pay) (i : BitVec 3) (b : Byte) (hi : i.toNat < 4) :
    (Pay.set p i b).toList.take (i.toNat + 1) = p.toList.take i.toNat ++ [b] := by
  have hcases : ∀ i : BitVec 3, i.toNat < 4 → i = 0 ∨ i = 1 ∨ i = 2 ∨ i = 3 := by decide
  rcases hcases i hi with rfl | rfl | rfl | rfl <;> rfl

theorem DuConsistent.payIdx_lt {r : Rom} {d : DecoderUnit} (h : DuConsistent r d) (hd : d.state = .pay) :
    d.payIdx.toNat + 1 < r.len d.curOp ∧ d.payIdx.toNat < 4 := by
  have hopen := h.pay_open hd
  rw [h.curLen_eq] at hopen
  have hlen := len_cases r d.curOp
  omega

section
variable {s : State} {b : Byte}

/-- The bytes of a completed frame are those received before and the last one. -/
theorem frameBytes_eq_pendingBytes (h : DuConsistent s.rom s.d) (hc : frameCompletes s b = true) :
    frameBytes s b = pendingBytes s.d ++ [b] := by
  rcases state_of_completes hc with hd | hd
  · simp [frameBytes, pendingBytes, hd]
  · have hlast : s.d.payIdx + 1 = s.d.curLen - 1 := by simpa [frameCompletes, hd] using hc
    have hlen := (last_payload_iff (h.pay_open hd)).mp hlast
    obtain ⟨-, hidx⟩ := h.payIdx_lt hd
    have hcount : s.rom.len s.d.curOp - 1 = s.d.payIdx.toNat + 1 := by have := h.curLen_eq; omega
    simp only [frameBytes, pendingBytes, hd, hcount, take_pay_set _ _ _ hidx, List.cons_append]

/-- A byte that does not complete its frame joins the bytes received before. -/
theorem pendingBytes_collectByte (h : DuConsistent s.rom s.d) (hd : s.d.state = .opc ∨ s.d.state = .pay)
    (hc : frameCompletes s b = false) : pendingBytes (collectByte b s).d = pendingBytes s.d ++ [b] := by
  have hpay : (collectByte b s).d.state = .pay := by simp [hc]
  rw [pendingBytes_of_pay hpay]
  rcases hd with hd | hd
  · rw [pendingBytes_of_opc hd, collectByte_d_of_opc hd]
    rfl
  · obtain ⟨-, hidx⟩ := h.payIdx_lt hd
    have hidx' : (s.d.payIdx + 1).toNat = s.d.payIdx.toNat + 1 := by bv_omega
    rw [pendingBytes_of_pay hd, collectByte_d_of_pay hd]
    simp only [latchPayload, hidx', take_pay_set _ _ _ hidx, List.cons_append]

theorem completeFrame_state {op : Byte} {pay : List Byte} (hc : frameCompletes s b = true) :
    (completeFrame op pay b s).d.state = .opc := by
  simp [completeFrame, hc]

theorem completeFrame_reccount {op : Byte} {pay : List Byte} (h : DuConsistent s.rom s.d)
    (hd : s.d.state = .opc ∨ s.d.state = .pay) (hfull : streamFull s = false) :
    (completeFrame op pay b s).d.reccount.toNat = s.d.reccount.toNat + 1 := by
  have hle := h.records_bytes
  have hlt := cursor_lt_of_not_full hfull
  rw [completeFrame, emitRecord_d, collectByte_reccount hd]
  exact count_toNat_succ (by omega)

end

/-! ### Parsing frame by frame (41_frame_decoder R155) -/

theorem recon_record_eq (r : Rom) (fb fb' : Count) (op : Byte) (pay : List Byte) :
    (recon r fb op pay).1 = (recon r fb' op pay).1 := by
  cases hs : r.shape op <;> simp [recon, hs]

/-- A complete frame at the head is its record, and the parse goes on after it. -/
theorem parseFrames_frame (r : Rom) (n : Nat) {op : Byte} {pay : List Byte} (rest : List Byte) (fb : Count)
    (hlen : pay.length + 1 = r.len op) :
    parseFrames r (n + 1) (op :: (pay ++ rest)) =
      ((recon r fb op pay).1 :: (parseFrames r n rest).1, (parseFrames r n rest).2) := by
  have hpay : r.len op - 1 = pay.length := by omega
  have hfits : ¬ (pay ++ rest).length + 1 < r.len op := by rw [List.length_append]; omega
  simp only [parseFrames, if_neg hfits, hpay, List.take_left, List.drop_left, recon_record_eq r fb 0]

/-- A frame cut short has no record. -/
theorem parseFrames_short (r : Rom) (n : Nat) {op : Byte} {pay : List Byte} (hlen : pay.length + 1 < r.len op) :
    parseFrames r n (op :: pay) = ([], true) := by
  cases n with
  | zero => rfl
  | succ n => rw [parseFrames, if_pos hlen]

/-! ### Records and statuses among the DU's events -/

theorem recordsOf_diags_append (ds : List Diag) (events : List DuOut) :
    recordsOf (ds.map .diag ++ events) = recordsOf events := by
  induction ds with
  | nil => rfl
  | cons d ds ih => exact ih

theorem statusesOf_diags_append (ds : List Diag) (events : List DuOut) :
    statusesOf (ds.map .diag ++ events) = statusesOf events := by
  induction ds with
  | nil => rfl
  | cons d ds ih => exact ih

/-! ### The frames of a run (41_frame_decoder R148 to R152) -/

/-- A run over frames has given what the parse of their bytes gives: from `d` to `d'` the DU has emitted `events`, and
its cursor stands at the end of the stream, of length `len`. -/
structure FramesAgree (parsed : List Record × Bool) (len : Nat) (d d' : DecoderUnit) (events : List DuOut) : Prop where
  records : recordsOf events = parsed.1
  statuses : statusesOf events = [if parsed.2 then .errTruncated else .ok]
  counted : d'.reccount.toNat = d.reccount.toNat + parsed.1.length
  cursor : d'.cursor.toNat = len

/-- A frame completed before adds its record, and its diagnostics change nothing. -/
theorem FramesAgree.record {later : List Record × Bool} {len : Nat} {d d' d'' : DecoderUnit} {events : List DuOut}
    (h : FramesAgree later len d' d'' events) (hcount : d'.reccount.toNat = d.reccount.toNat + 1) (rec : Record)
    (diags : List Diag) :
    FramesAgree (rec :: later.1, later.2) len d d'' (.record rec :: diags.map .diag ++ events) := by
  constructor
  case records => rw [List.cons_append, recordsOf, recordsOf_diags_append, h.records]
  case statuses => rw [List.cons_append, statusesOf, statusesOf_diags_append, h.statuses]
  case counted => rw [h.counted, hcount, List.length_cons]; omega
  case cursor => exact h.cursor

section
variable {s : State} {pre rest : List Byte}

/-- The end of the stream between frames ends the run well, and inside a frame it cuts the frame short (R149, R150). -/
theorem runsTo_of_frames_eos (h : Delivering s pre []) (hd : s.d.state = .opc ∨ s.d.state = .pay) (n : Nat) :
    ∃ t events, RunsTo 1 s pre t events ∧
      FramesAgree (parseFrames s.rom n (pendingBytes s.d)) pre.length s.d t.d events := by
  have hstep := step_of_eos h.input
  have hcur : s.d.cursor.toNat = pre.length := h.cursor_eq (by rcases hd with hd | hd <;> simp [hd])
  rcases hd with hd | hd
  · rw [onEos, hd] at hstep
    refine ⟨_, _, h.runsTo_eos hstep rfl rfl rfl ⟨rfl, rfl, rfl, rfl⟩, ?_⟩
    rw [pendingBytes_of_opc hd, parseFrames]
    exact { records := rfl, statuses := rfl, counted := rfl, cursor := hcur }
  · rw [onEos, hd] at hstep
    refine ⟨_, _, h.runsTo_eos hstep rfl rfl rfl ⟨rfl, rfl, rfl, rfl⟩, ?_⟩
    obtain ⟨hshort, -⟩ := h.du.payIdx_lt hd
    rw [pendingBytes_of_pay hd, parseFrames_short _ _ (by rw [List.length_take]; omega)]
    exact { records := rfl, statuses := rfl, counted := rfl, cursor := hcur }

/-- The rest of a run in `D_OPC` or `D_PAY` parses the bytes of the frame being received and those to come. -/
theorem runsTo_of_frames (h : Delivering s pre rest) (hd : s.d.state = .opc ∨ s.d.state = .pay) {n : Nat}
    (hn : (pendingBytes s.d ++ rest).length ≤ n) :
    ∃ t events, RunsTo (rest.length + 1) s (pre ++ rest) t events ∧
      FramesAgree (parseFrames s.rom n (pendingBytes s.d ++ rest)) (pre ++ rest).length s.d t.d events := by
  induction rest generalizing s pre n with
  | nil =>
    rw [List.append_nil, List.append_nil]
    exact runsTo_of_frames_eos h hd n
  | cons b rest ih =>
    have hfull := h.not_full (by rcases hd with hd | hd <;> simp [hd])
    rw [List.append_cons pre]
    cases hc : frameCompletes s b with
    | false =>
      have hstep := step_of_frame_byte h.input_byte hd hc hfull
      have hpending := pendingBytes_collectByte h.du hd hc
      rw [List.append_cons (pendingBytes s.d), ← hpending] at hn ⊢
      obtain ⟨t, events, hruns, hagree⟩ := ih (h.byte hstep) (.inr (by simp [hc])) hn
      refine ⟨t, events, hruns.cons hstep (List.append_nil _).symm ⟨rfl, rfl, rfl, rfl⟩, ?_⟩
      exact { hagree with counted := collectByte_reccount hd b ▸ hagree.counted }
    | true =>
      obtain ⟨op, pay, hbytes, hlen⟩ := frameBytes_of_completes hc
      have hstep := step_of_completes h.input_byte hc hfull hbytes
      have hopc := completeFrame_state (op := op) (pay := pay) hc
      have hframe : pendingBytes s.d ++ b :: rest = op :: (pay ++ rest) := by
        rw [List.append_cons, ← frameBytes_eq_pendingBytes h.du hc, hbytes, List.cons_append]
      rw [hframe, List.length_cons, List.length_append] at hn
      obtain ⟨m, rfl⟩ : ∃ m, n = m + 1 := ⟨n - 1, by omega⟩
      rw [hframe, parseFrames_frame s.rom m rest (collectByte b s).d.frameBase hlen]
      obtain ⟨t, events, hruns, hagree⟩ := ih (h.byte hstep) (.inl hopc) (n := m)
        (by rw [pendingBytes_of_opc hopc, List.nil_append]; omega)
      rw [pendingBytes_of_opc hopc, List.nil_append] at hagree
      exact ⟨t, _, hruns.cons hstep rfl ⟨rfl, rfl, rfl, rfl⟩,
        hagree.record (completeFrame_reccount h.du hd hfull) _ _⟩

end

/-! ### The tag (41_frame_decoder R155, R159) -/

theorem tagged_iff_prefix (bytes : List Byte) : tagged bytes = true ↔ tag <+: bytes := by
  have hlen : tag.length = 3 := rfl
  rw [List.prefix_iff_eq_take, hlen, tagged, Bool.and_eq_true, decide_eq_true_eq, beq_iff_eq]
  refine ⟨fun ⟨_, htake⟩ => htake.symm, fun htake => ⟨?_, htake.symm⟩⟩
  have hle := congrArg List.length htake
  rw [hlen, List.length_take] at hle
  omega

theorem firstMismatch_append (pre ts bs : List Byte) :
    firstMismatch (pre ++ ts) (pre ++ bs) = pre.length + firstMismatch ts bs := by
  induction pre with
  | nil => simp
  | cons b pre ih =>
    rw [List.cons_append, List.cons_append, firstMismatch, if_pos rfl, ih, List.length_cons]
    omega

theorem decodeStream_of_untagged (r : Rom) {bytes : List Byte} (h : ¬ tag <+: bytes) :
    decodeStream r bytes = (.errHeader, []) := by
  rw [decodeStream, if_neg (mt (tagged_iff_prefix bytes).mp h)]

theorem decodeStream_of_tagged (r : Rom) {bytes : List Byte} (h : tag <+: bytes) :
    decodeStream r bytes =
      if (parseFrames r bytes.length (bytes.drop 4)).2 then (.errTruncated, [])
      else (.ok, completeRecords r bytes) := by
  rw [decodeStream, if_pos ((tagged_iff_prefix bytes).mpr h)]

/-- A stream's records are those of its complete frames if it decodes, and none otherwise. -/
theorem decodeStream_records (r : Rom) (bytes : List Byte) :
    (decodeStream r bytes).2 = if (decodeStream r bytes).1 = .ok then completeRecords r bytes else [] := by
  unfold decodeStream
  cases tagged bytes with
  | false => rfl
  | true => cases (parseFrames r bytes.length (bytes.drop 4)).2 <;> rfl

/-! ### A run agrees with `DECODE` (41_frame_decoder R156) -/

/-- What a run that emitted `events` and left the DU as `d` owes the stream `bytes`. -/
structure DecodeAgrees (r : Rom) (bytes : List Byte) (d : DecoderUnit) (events : List DuOut) : Prop where
  statuses : statusesOf events = [(decodeStream r bytes).1]
  framed : (decodeStream r bytes).1 ≠ .errHeader →
    recordsOf events = completeRecords r bytes ∧ d.reccount.toNat = (completeRecords r bytes).length ∧
      d.cursor.toNat = bytes.length
  header : (decodeStream r bytes).1 = .errHeader →
    recordsOf events = [] ∧ d.reccount = 0 ∧ d.cursor.toNat = firstMismatch tag bytes

section
variable {r : Rom} {bytes : List Byte} {d d' : DecoderUnit} {events : List DuOut}

/-- A run that ends in the tag. -/
theorem DecodeAgrees.of_untagged (h : ¬ tag <+: bytes) (hcount : d.reccount = 0)
    (hcur : d.cursor.toNat = firstMismatch tag bytes) : DecodeAgrees r bytes d [.finished .errHeader] := by
  have hdec := decodeStream_of_untagged r h
  constructor
  case statuses => rw [hdec]; rfl
  case framed => rw [hdec]; exact fun hne => absurd rfl hne
  case header => exact fun _ => ⟨rfl, hcount, hcur⟩

/-- A run that gets past the tag. -/
theorem DecodeAgrees.of_frames (h : tag <+: bytes) (hcount : d.reccount = 0)
    (hframes : FramesAgree (parseFrames r bytes.length (bytes.drop 4)) bytes.length d d' events) :
    DecodeAgrees r bytes d' events := by
  have hdec := decodeStream_of_tagged r h
  have hstatus : (decodeStream r bytes).1 =
      if (parseFrames r bytes.length (bytes.drop 4)).2 then .errTruncated else .ok := by
    rw [hdec, apply_ite Prod.fst]
  constructor
  case statuses => rw [hframes.statuses, hstatus]
  case framed =>
    refine fun _ => ⟨hframes.records, ?_, hframes.cursor⟩
    rw [hframes.counted, hcount]
    exact Nat.zero_add _
  case header =>
    intro hheader
    rw [hstatus] at hheader
    split_ifs at hheader

theorem DecodeAgrees.result (h : DecodeAgrees r bytes d events) :
    decodeResult events = some (decodeStream r bytes) := by
  have hrecords := decodeStream_records r bytes
  have hframed := h.framed
  rw [decodeResult, h.statuses]
  generalize decodeStream r bytes = result at hrecords hframed
  obtain ⟨st, rs⟩ := result
  dsimp only at hrecords hframed
  rw [hrecords]
  cases st with
  | ok => rw [(hframed (by decide)).1]; rfl
  | errHeader | errTruncated | errRecord => rfl

end

/-! ### The header of a run (41_frame_decoder R147, R151) -/

section
variable {s : State} {pre left rest : List Byte} {x : Byte}

theorem Delivering.hdrIdx_toNat (h : Delivering s pre rest) (hd : s.d.state = .hdr) :
    s.d.hdrIdx.toNat = pre.length :=
  (h.du.hdr_cursor hd).symm.trans (h.cursor_eq (by simp [hd]))

/-- After the whole tag the version byte is next. -/
theorem Delivering.hdrIdx_of_tag (h : Delivering s tag rest) (hd : s.d.state = .hdr) : s.d.hdrIdx = 3 :=
  BitVec.eq_of_toNat_eq (h.hdrIdx_toNat hd)

/-- Inside the tag the next byte is checked against the first one left. -/
theorem Delivering.hdrIdx_of_left (h : Delivering s pre rest) (hd : s.d.state = .hdr) (htag : tag = pre ++ x :: left) :
    s.d.hdrIdx ≠ 3 ∧ tag.getD s.d.hdrIdx.toNat 0 = x := by
  have hidx := h.hdrIdx_toNat hd
  refine ⟨fun h3 => ?_, by simp [hidx, htag]⟩
  have hlen : 3 = (pre ++ x :: left).length := congrArg List.length htag
  rw [List.length_append, List.length_cons] at hlen
  have h3' : s.d.hdrIdx.toNat = 3 := by rw [h3]; rfl
  omega

/-- A stream that leaves the tag after `pre`, by its next byte or by its end, answers `ERR_HEADER` there. -/
theorem DecodeAgrees.of_mismatch {r : Rom} {d : DecoderUnit} (htag : tag = pre ++ x :: left)
    (hne : ∀ b ∈ rest.head?, b ≠ x) (hcount : d.reccount = 0) (hcur : d.cursor.toNat = pre.length) :
    DecodeAgrees r (pre ++ rest) d [.finished .errHeader] := by
  have hmismatch : ¬ x :: left <+: rest ∧ firstMismatch (x :: left) rest = 0 := by
    cases rest with
    | nil => simp [firstMismatch]
    | cons b rest =>
      have hb : b ≠ x := hne b rfl
      simp [firstMismatch, List.cons_prefix_cons, hb, hb.symm]
  obtain ⟨hprefix, hfirst⟩ := hmismatch
  refine .of_untagged ?_ hcount ?_
  · rwa [htag, List.prefix_append_right_inj]
  · rw [htag, firstMismatch_append, hfirst, hcur]
    rfl

end

/-- The rest of a run in `D_HDR`, with `left` of the tag still to be matched. -/
theorem runsTo_of_header {s : State} {pre left rest : List Byte} (h : Delivering s pre rest) (hd : s.d.state = .hdr)
    (htag : tag = pre ++ left) (hcount : s.d.reccount = 0) :
    ∃ t events, RunsTo (rest.length + 1) s (pre ++ rest) t events ∧
      DecodeAgrees s.rom (pre ++ rest) t.d events := by
  induction rest generalizing s pre left with
  | nil =>
    have hstep := step_of_eos h.input
    rw [onEos, hd] at hstep
    cases left with
    | nil =>
      obtain rfl : tag = pre := htag.trans (List.append_nil pre)
      rw [h.hdrIdx_of_tag hd] at hstep
      rw [List.append_nil]
      refine ⟨_, _, h.runsTo_eos hstep rfl rfl rfl ⟨rfl, rfl, rfl, rfl⟩, .of_frames (List.prefix_refl tag) hcount ?_⟩
      exact { records := rfl, statuses := rfl, counted := rfl, cursor := h.cursor_eq (by simp [hd]) }
    | cons x left =>
      obtain ⟨hidx, -⟩ := h.hdrIdx_of_left hd htag
      dsimp only at hstep
      rw [if_neg hidx] at hstep
      have hruns := h.runsTo_eos hstep rfl rfl rfl ⟨rfl, rfl, rfl, rfl⟩
      rw [← List.append_nil pre] at hruns
      exact ⟨_, _, hruns, .of_mismatch htag (by simp) hcount (h.cursor_eq (by simp [hd]))⟩
  | cons b rest ih =>
    have hstep := step_of_header_byte h.input_byte hd (h.not_full (by simp [hd]))
    cases left with
    | nil =>
      obtain rfl : tag = pre := htag.trans (List.append_nil pre)
      rw [onHeaderByte_of_version (h.hdrIdx_of_tag hd)] at hstep
      obtain ⟨t, events, hruns, hframes⟩ := runsTo_of_frames (h.byte hstep) (.inl rfl)
        (n := (tag ++ b :: rest).length) (by simp [pendingBytes, captureVersion]; omega)
      rw [← List.append_cons] at hruns hframes
      exact ⟨t, events, hruns.cons hstep (List.append_nil _).symm ⟨rfl, rfl, rfl, rfl⟩,
        .of_frames (d := captureVersion b s.d) (List.prefix_append tag _) hcount hframes⟩
    | cons x left =>
      obtain ⟨hidx, htagByte⟩ := h.hdrIdx_of_left hd htag
      by_cases hb : b = x
      · rw [onHeaderByte_of_tag hidx (hb.trans htagByte.symm)] at hstep
        rw [List.append_cons]
        obtain ⟨t, events, hruns, hagree⟩ := ih (h.byte hstep) hd (by rw [htag, hb, List.append_cons]) hcount
        exact ⟨t, events, hruns.cons hstep (List.append_nil _).symm ⟨rfl, rfl, rfl, rfl⟩, hagree⟩
      · rw [onHeaderByte_of_mismatch hidx (by rwa [htagByte])] at hstep
        obtain ⟨t, hruns, ht⟩ := runsTo_of_err (h.byte hstep) rfl
        rw [← List.append_cons] at hruns
        refine ⟨t, _, hruns.cons hstep rfl ⟨rfl, rfl, rfl, rfl⟩, .of_mismatch htag (by simpa using hb) ?_ ?_⟩
        · rw [ht]; exact hcount
        · rw [ht]; exact h.cursor_eq (by simp [hd])

/-- A start between runs is taken (41_frame_decoder R146). -/
theorem step_of_start {s : State} {rest : List HostEvent} (hin : s.input = .startDecode :: rest)
    (hrest : s.d.state.atRest = true) : step s = .next (startDecoder (consume s)) := by
  rw [step_of_no_fetch (by simp [fetchInstr, hin]), handleEvent, hin]
  cases hd : s.d.state <;> simp [hd, DState.atRest, onStartDecode] at hrest ⊢

/-- After the start the whole stream is to come. -/
theorem delivering_startDecoder {s : State} {bytes : List Byte} (hin : s.input = decodeEvents bytes)
    (hfits : bytes.length ≤ maxStreamLen) : Delivering (startDecoder (consume s)) [] bytes :=
  { input := by rw [startDecoder_input, consume_input, hin]; rfl
    du := duConsistent_started s.rom
    contiguous := .empty rfl rfl
    count := rfl
    stored := fun _ => rfl
    fits := by simpa using hfits }

/-- Settles O56: the start, then the header phase with the whole tag to match. -/
theorem decoderRunAgreesWithDecode : Obligations.DecoderRunAgreesWithDecode := by
  intro s bytes hrest hfits hin
  obtain ⟨t, events, hruns, hagree⟩ := runsTo_of_header (delivering_startDecoder hin hfits) rfl rfl rfl
  rw [List.nil_append] at hruns hagree
  have hall := hruns.cons (step_of_start hin hrest) (List.append_nil _).symm ⟨rfl, rfl, rfl, rfl⟩
  have hframed : (decodeStream s.rom bytes).1 ≠ .errHeader → _ := hagree.framed
  refine ⟨t, events, hall.run, hall.input, hall.out, hall.encoder, hall.stored, hagree.statuses, hagree.result,
    fun hok => ?_, fun htrunc => hframed (by simp [htrunc]), hagree.header⟩
  rw [decodeStream_records, if_pos hok]
  exact hframed (by simp [hok])

end Sys2Proof.Machine

/-! The frame format (30_encoding R72 to R89): the instruction read from a frame and the frame laid out for an
instruction undo each other. Both rest on `instrOf_opcode` and `instrOf_body`: a well-formed instruction is determined
by its opcode byte and its body, and a body by the payload bytes of its shape. -/

namespace Sys2Proof

open Sys2Proof.Machine

/-! ### Case analysis by name -/

/-- A statement about every instruction, with one case for the nineteen `Op_XX` (43_nsl_instructions R214 to R239). -/
theorem Instr.byName {motive : Instr → Prop}
    (set : ∀ a b, motive (.set a b)) (loopSet : ∀ a, motive (.loopSet a)) (loopEnd : motive .loopEnd)
    (endOp : motive .endOp) (placeholder : ∀ raw, motive (.placeholder raw))
    (ofOpen : ∀ u p, motive (Instr.ofOpen u p)) (jump : ∀ v, motive (.jump v)) (clearTrack : motive .clearTrack) :
    ∀ i, motive i
  | .set a b => set a b
  | .loopSet a => loopSet a
  | .loopEnd => loopEnd
  | .endOp => endOp
  | .placeholder raw => placeholder raw
  | .opA2 p => ofOpen .a2 p
  | .opA3 p => ofOpen .a3 p
  | .opA4 p => ofOpen .a4 p
  | .opA5 p => ofOpen .a5 p
  | .opB0 p => ofOpen .b0 p
  | .opB1 p => ofOpen .b1 p
  | .opB2 p => ofOpen .b2 p
  | .opB3 p => ofOpen .b3 p
  | .opB4 p => ofOpen .b4 p
  | .opB5 p => ofOpen .b5 p
  | .opB6 p => ofOpen .b6 p
  | .opC2 p => ofOpen .c2 p
  | .opD0 p => ofOpen .d0 p
  | .opD1 p => ofOpen .d1 p
  | .opD2 p => ofOpen .d2 p
  | .opD3 p => ofOpen .d3 p
  | .opD4 p => ofOpen .d4 p
  | .opD5 p => ofOpen .d5 p
  | .opD6 p => ofOpen .d6 p
  | .jump v => jump v
  | .clearTrack => clearTrack

/-! ### Well-formedness, check by check -/

theorem wellFormed_iff (r : Rom) (i : Instr) :
    i.wellFormed r = true ↔ i.body.magsFit = true ∧ i.rawUnknown = true ∧ i.formMatches r = true := by
  simp only [Instr.wellFormed, Bool.and_eq_true, and_assoc]

theorem formMatches_iff (r : Rom) (u : UOp) (p : OpenForm) :
    UOp.formMatches r u p = true ↔ u ≠ r.opcJump ∧ u ≠ r.opcClear ∧ p.body.shape = r.openShape u := by
  simp [UOp.formMatches, and_assoc]

/-! ### The instruction an opcode byte names -/

/-- A byte is unknown exactly when it is none of the four assigned opcodes and no byte of `U` (30_encoding R81, R85). -/
theorem opKnown_eq_false_iff : ∀ op : Byte, opKnown op = false ↔
    op ≠ 0xA1 ∧ op ≠ 0xC0 ∧ op ≠ 0xC1 ∧ op ≠ 0xFF ∧ UOp.ofByte op = none := by decide

section
variable (r : Rom) (a b : Field) (v : Wide)

theorem instrOf_of_unknown {op : Byte} (h : opKnown op = false) : instrOf r op a b v = .placeholder op := by
  obtain ⟨hset, hloop, hend, hff, hopen⟩ := (opKnown_eq_false_iff op).mp h
  rw [instrOf, if_neg hset, if_neg hloop, if_neg hend, if_neg hff, hopen]

theorem instrOf_byte (u : UOp) : instrOf r u.byte a b v = openInstr r u a b v := by
  obtain ⟨hset, hloop, hend, hff⟩ := byte_ne_assigned u
  rw [instrOf, if_neg hset, if_neg hloop, if_neg hend, if_neg hff, ofByte_byte]

theorem openInstr_jump : openInstr r r.opcJump a b v = .jump v := if_pos rfl

theorem openInstr_clear (h : r.opcClear ≠ r.opcJump) : openInstr r r.opcClear a b v = .clearTrack :=
  (if_neg h).trans (if_pos rfl)

/-- The form the ROM argument gives a byte of `U` that goes by the name `Op_XX` (30_encoding R84). -/
def Rom.openForm (u : UOp) : OpenForm := if r.twoOps.contains u then .two a b else .zero

variable {r} {u : UOp} (hjump : u ≠ r.opcJump) (hclear : u ≠ r.opcClear)
include hjump hclear

theorem openInstr_named : openInstr r u a b v = Instr.ofOpen u (r.openForm a b u) := by
  rw [openInstr, if_neg hjump, if_neg hclear, Rom.openForm, apply_ite (Instr.ofOpen u)]

theorem openShape_named : r.openShape u = (r.openForm a b u).body.shape := by
  rw [Rom.openShape, if_neg hjump, if_neg hclear, Rom.openForm]
  split_ifs <;> rfl

end

@[simp] theorem shape_bodyWith (sh : Shape) (a b : Field) (v : Wide) : (sh.bodyWith a b v).shape = sh := by
  cases sh <;> rfl

theorem openForm_eq {r : Rom} {u : UOp} {p : OpenForm} {a b : Field} {v : Wide}
    (hshape : (r.openForm a b u).body.shape = p.body.shape) (hbody : p.body.shape.bodyWith a b v = p.body) :
    r.openForm a b u = p := by
  unfold Rom.openForm at hshape ⊢
  cases p with
  | zero =>
    split_ifs at hshape ⊢
    · cases hshape
    · rfl
  | two x y =>
    cases hbody
    split_ifs at hshape ⊢
    · rfl
    · cases hshape

/-- A well-formed instruction is the one its opcode byte names, with the operands and wide integer of its body. -/
theorem instrOf_eq_of_body {r : Rom} {i : Instr} {a b : Field} {v : Wide} (h : i.wellFormed r = true)
    (hbody : i.body.shape.bodyWith a b v = i.body) : instrOf r (i.opcode r) a b v = i := by
  obtain ⟨-, hraw, hform⟩ := (wellFormed_iff r i).mp h
  cases i using Instr.byName with
  | set x y => cases hbody; rfl
  | loopSet x => cases hbody; rfl
  | loopEnd => rfl
  | endOp => rfl
  | placeholder raw =>
    have hunknown : opKnown raw = false := by simpa [Instr.rawUnknown] using hraw
    exact instrOf_of_unknown r a b v hunknown
  | ofOpen u p =>
    rw [formMatches_ofOpen, formMatches_iff] at hform
    obtain ⟨hjump, hclear, hshape⟩ := hform
    rw [body_ofOpen] at hbody
    rw [opcode_ofOpen, instrOf_byte, openInstr_named a b v hjump hclear,
      openForm_eq ((openShape_named a b hjump hclear).symm.trans hshape.symm) hbody]
  | jump x => cases hbody; exact (instrOf_byte r a b _ _).trans (openInstr_jump r a b _)
  | clearTrack => exact (instrOf_byte r a b v _).trans (openInstr_clear r a b v (of_decide_eq_true hform))

theorem magsFit_bodyWith {a b : Field} (ha : a.magFits = true) (hb : b.magFits = true) (sh : Shape) (v : Wide) :
    (sh.bodyWith a b v).magsFit = true := by
  cases sh <;> simp [Shape.bodyWith, Body.magsFit, ha, hb]

/-- Whatever opcode byte names an instruction, the name and the form are those of its ROM argument. -/
theorem instrOf_wellFormed (r : Rom) (op : Byte) {a b : Field} (ha : a.magFits = true) (hb : b.magFits = true)
    (v : Wide) : (instrOf r op a b v).wellFormed r = true := by
  refine (wellFormed_iff r _).mpr ⟨?_, ?_⟩
  · rw [instrOf_body]
    exact magsFit_bodyWith ha hb _ v
  · unfold instrOf
    split_ifs with hset hloop hend hff
    · exact ⟨rfl, rfl⟩
    · exact ⟨rfl, rfl⟩
    · exact ⟨rfl, rfl⟩
    · exact ⟨rfl, rfl⟩
    · cases hu : UOp.ofByte op with
      | none =>
        have hunknown := (opKnown_eq_false_iff op).mpr ⟨hset, hloop, hend, hff, hu⟩
        exact ⟨by simp [Instr.rawUnknown, hunknown], rfl⟩
      | some u =>
        by_cases hjump : u = r.opcJump
        · simp only [hjump, openInstr_jump]
          exact ⟨rfl, rfl⟩
        · by_cases hclear : u = r.opcClear
          · subst hclear
            simp only [openInstr_clear r a b v hjump]
            exact ⟨rfl, decide_eq_true hjump⟩
          · simp only [openInstr_named a b v hjump hclear, rawUnknown_ofOpen, formMatches_ofOpen, formMatches_iff]
            exact ⟨trivial, hjump, hclear, (openShape_named a b hjump hclear).symm⟩

/-! ### The bytes of a payload (30_encoding R73 to R79) -/

/-- A wide integer is read with its first byte the more significant (40_operand_datapath R122). -/
theorem wideDec_eq_append (hi lo : Byte) : wideDec hi lo = hi ++ lo := by
  rw [BitVec.append_def, BitVec.shiftLeftZeroExtend_eq, BitVec.setWidth'_eq, wideDec]

theorem wideDec_wideEnc (v : Wide) : wideDec (v.extractLsb' 8 8) (v.extractLsb' 0 8) = v := by
  rw [wideDec_eq_append]
  exact BitVec.extractLsb'_append_extractLsb'

theorem wideEnc_wideDec (hi lo : Byte) : wideEnc (wideDec hi lo) = [hi, lo] := by
  rw [wideDec_eq_append, wideEnc, BitVec.extractLsb'_append_eq_left, BitVec.extractLsb'_append_eq_right]

/-- The first bytes of a list that has as many, one by one. -/
theorem take_eq_map_getD {n : Nat} {l : List Byte} (h : n ≤ l.length) :
    l.take n = (List.range n).map fun k => l.getD k 0 := by
  apply List.ext_getElem
  · simp [h]
  · intro k hk _
    have hkl : k < l.length := by rw [List.length_take] at hk; omega
    simp [List.getElem?_eq_getElem hkl]

/-- The body a shape makes of the payload bytes of a frame (30_encoding R73 to R76). -/
def Shape.bodyOfBytes (sh : Shape) (pay : List Byte) : Body :=
  sh.bodyWith (fieldOf (pay.getD 0 0) (pay.getD 1 0)) (fieldOf (pay.getD 2 0) (pay.getD 3 0))
    (wideDec (pay.getD 0 0) (pay.getD 1 0))

/-- A body that fits its frame is read back from its payload bytes, whatever bytes follow. -/
theorem bodyOfBytes_bodyBytes {body : Body} (h : body.magsFit = true) (rest : List Byte) :
    body.shape.bodyOfBytes (bodyBytes body ++ rest) = body := by
  cases body with
  | z => rfl
  | o a => exact congrArg Body.o (fieldOf_scalarByte a h)
  | w v => exact congrArg Body.w (wideDec_wideEnc v)
  | t a b =>
    obtain ⟨ha, hb⟩ : a.magFits = true ∧ b.magFits = true := by simpa [Body.magsFit] using h
    exact congrArg₂ Body.t (fieldOf_scalarByte a ha) (fieldOf_scalarByte b hb)

/-- The body read from a payload has the payload's bytes: none of their bits is dropped (R89). -/
theorem bodyBytes_bodyOfBytes {sh : Shape} {pay : List Byte} (h : sh.len ≤ pay.length + 1) :
    bodyBytes (sh.bodyOfBytes pay) = pay.take (sh.len - 1) := by
  have hlen : sh.len - 1 ≤ pay.length := by omega
  rw [take_eq_map_getD hlen]
  cases sh with
  | z => rfl
  | o => exact bytes_fieldOf _ _
  | w => exact wideEnc_wideDec _ _
  | t => exact congrArg₂ (· ++ ·) (bytes_fieldOf _ _) (bytes_fieldOf _ _)

/-! ### Decode and encode -/

theorem decodeFrame_body (r : Rom) (op : Byte) (pay : List Byte) :
    (decodeFrame r op (pay.getD 0 0) (pay.getD 1 0) (pay.getD 2 0) (pay.getD 3 0)).body =
      (r.shape op).bodyOfBytes pay := instrOf_body ..

/-- Settles O1: the body of a well-formed instruction is read back from its bytes, and with its opcode byte it
determines the instruction. -/
theorem decodeOfEncode : Obligations.DecodeOfEncode := by
  intro r i rest h
  obtain ⟨hmags, -⟩ := (wellFormed_iff r i).mp h
  have hbody := bodyOfBytes_bodyBytes hmags rest
  have hinstr := instrOf_eq_of_body h hbody
  have hshape : r.shape (i.opcode r) = i.body.shape := by
    rw [← hinstr, instrOf_opcode, instrOf_body, shape_bodyWith]
  have hlen : r.len (i.opcode r) = (bodyBytes i.body).length + 1 := by rw [Rom.len, hshape, bodyBytes_length]
  rw [encode, List.cons_append, decode_cons, hlen, if_neg (by simp), decodeFrame, hinstr, Nat.add_sub_cancel,
    List.drop_left]

theorem decode_eq_ok {r : Rom} {op : Byte} {pay rest : List Byte} {i : Instr}
    (h : decode r (op :: pay) = .ok (i, rest)) :
    r.len op ≤ pay.length + 1 ∧ rest = pay.drop (r.len op - 1) := by
  rw [decode_cons] at h
  split_ifs at h with hlt
  cases h
  exact ⟨not_lt.mp hlt, rfl⟩

/-- Settles O2: an instruction read from a frame carries the frame's opcode byte, and its body the bytes of the
payload. -/
theorem encodeOfDecode : Obligations.EncodeOfDecode := by
  intro r bytes i rest h
  cases bytes with
  | nil => cases h
  | cons op pay =>
    obtain ⟨hlen, rfl⟩ := decode_eq_ok h
    rw [eq_decodeFrame_of_decode h]
    refine ⟨instrOf_wellFormed r op (fieldOf_magFits _ _) (fieldOf_magFits _ _) _, ?_⟩
    rw [encode, decodeFrame_body, bodyBytes_bodyOfBytes hlen, decodeFrame, instrOf_opcode, List.cons_append, Rom.len,
      List.take_append_drop]

end Sys2Proof

/-! The dispatch ROM and the frames of single opcode bytes (30_encoding R81 to R90). -/

namespace Sys2Proof

open Sys2Proof.Machine

/-- Settles O3. -/
theorem frameLengthFromOpcodeAlone : Obligations.FrameLengthFromOpcodeAlone := by
  intro r op rest
  refine ⟨len_cases r op, ?_, fun i later h => (decode_eq_ok h).2⟩
  rw [decode_cons]
  split_ifs with hshort <;> simp [hshort]

theorem opKnown_eq_false_iff_ranges : ∀ op : Byte, opKnown op = false ↔
    (op ≤ 0xA0 ∨ (0xA6 ≤ op ∧ op ≤ 0xAF) ∨ (0xB7 ≤ op ∧ op ≤ 0xBF) ∨ (0xC3 ≤ op ∧ op ≤ 0xCF) ∨
      (0xD7 ≤ op ∧ op ≤ 0xFE)) := by decide

theorem recon_of_unknown (r : Rom) (fb : Count) {op : Byte} (pay : List Byte) (h : opKnown op = false) :
    (recon r fb op pay).1 = { op := 0x00, a := zeroOperand, b := zeroOperand, w := 0 } := by
  simp [recon, shape_of_unknown r h, skel, varOp, h]

/-- Settles O4: an unknown byte has shape `Z`, so its frame is the byte alone and its record the skeleton. -/
theorem unknownOpcodesReconstructAsPlaceholder : Obligations.UnknownOpcodesReconstructAsPlaceholder := by
  refine ⟨opKnown_eq_false_iff_ranges, by decide +kernel, fun r fb op pay rest h => ?_⟩
  have hshape := shape_of_unknown r h
  have hlen : r.len op = 1 := by rw [Rom.len, hshape]; rfl
  have hrecord := recon_of_unknown r fb pay h
  refine ⟨?_, hlen, ?_, hrecord, hrecord.trans (recon_of_unknown r fb [] (by decide)).symm⟩
  · rw [Rom.dispatch, h, hshape]
  · rw [decode_cons, hlen, if_neg (by omega), decodeFrame, instrOf_of_unknown r _ _ _ h]
    rfl

theorem openShape_jump (r : Rom) : r.openShape r.opcJump = .w := if_pos rfl

theorem openShape_of_ne_jump {r : Rom} {u : UOp} (h : u ≠ r.opcJump) :
    r.openShape u = .z ∨ r.openShape u = .t := by
  rw [Rom.openShape, if_neg h]
  split_ifs
  · exact .inl rfl
  · exact .inr rfl
  · exact .inl rfl

theorem openShape_clear {r : Rom} (h : r.Admissible) : r.openShape r.opcClear = .z :=
  (if_neg h).trans (if_pos rfl)

theorem openShape_eq_w_iff (r : Rom) (u : UOp) : r.openShape u = .w ↔ u = r.opcJump := by
  constructor
  · intro hw
    by_contra hne
    rcases openShape_of_ne_jump hne with h | h <;> cases hw.symm.trans h
  · rintro rfl
    exact openShape_jump r

/-- Settles O5. -/
theorem dispatchRomEntries : Obligations.DispatchRomEntries := by
  intro r
  refine ⟨rfl, rfl, rfl, rfl, rfl, fun u => ⟨opKnown_byte u, ?_, fun hne => ?_⟩, fun hadm => ?_⟩
  · rw [shape_byte, openShape_eq_w_iff]
  · rw [shape_byte]
    exact openShape_of_ne_jump hne
  · rw [shape_byte, openShape_clear hadm]

theorem wellFormed_ofOpen {r : Rom} {u : UOp} {p : OpenForm} (hjump : u ≠ r.opcJump) (hclear : u ≠ r.opcClear)
    (hmags : p.body.magsFit = true) (hshape : p.body.shape = r.openShape u) :
    (Instr.ofOpen u p).wellFormed r = true := by
  rw [wellFormed_iff, body_ofOpen, rawUnknown_ofOpen, formMatches_ofOpen, formMatches_iff]
  exact ⟨hmags, rfl, hjump, hclear, hshape⟩

theorem encode_ofOpen (r : Rom) (u : UOp) (p : OpenForm) :
    encode r (Instr.ofOpen u p) = u.byte :: bodyBytes p.body := by
  rw [encode, opcode_ofOpen, body_ofOpen]

/-- Settles O6: each frame is the one laid out for the instruction named, which is well formed. -/
theorem openBytesDecodeByRomArgument : Obligations.OpenBytesDecodeByRomArgument := by
  intro r u rest p0 p1 p2 p3
  refine ⟨?_, ?_, fun hjump hclear htwo => ?_, fun hjump hclear htwo => ?_⟩
  · rintro rfl
    have hframe : encode r (.jump (p0 ++ p1)) = r.opcJump.byte :: [p0, p1] := by
      rw [← wideDec_eq_append, ← wideEnc_wideDec]; rfl
    have hdec := decodeOfEncode r (.jump (p0 ++ p1)) rest rfl
    rwa [hframe] at hdec
  · rintro hjump rfl
    exact decodeOfEncode r .clearTrack rest ((wellFormed_iff r _).mpr ⟨rfl, rfl, decide_eq_true hjump⟩)
  · have hshape : OpenForm.zero.body.shape = r.openShape u := by
      simp [Rom.openShape, hjump, hclear, htwo, OpenForm.body, Body.shape]
    have hdec := decodeOfEncode r _ rest (wellFormed_ofOpen hjump hclear rfl hshape)
    rwa [encode_ofOpen] at hdec
  · have hshape : (OpenForm.two (fieldOf p0 p1) (fieldOf p2 p3)).body.shape = r.openShape u := by
      simp [Rom.openShape, hjump, hclear, htwo, OpenForm.body, Body.shape]
    have hmags : (OpenForm.two (fieldOf p0 p1) (fieldOf p2 p3)).body.magsFit = true := by
      simp [OpenForm.body, Body.magsFit, fieldOf_magFits]
    have hdec := decodeOfEncode r _ rest (wellFormed_ofOpen hjump hclear hmags hshape)
    rwa [encode_ofOpen, OpenForm.body, bodyBytes, bytes_fieldOf, bytes_fieldOf] at hdec

/-- Settles O7: each frame has the length of its assigned shape, and its bytes are read off. -/
theorem workedExamplesDecode : Obligations.WorkedExamplesDecode := fun _ => ⟨rfl, rfl, rfl, rfl⟩

/-- Settles O11: every kind asked for is in the table, so the free value of `ceil` is not met. -/
theorem ceilingTable : Obligations.CeilingTable := rfl

end Sys2Proof

/-! A table word delivered to the DU (log 7). The frame is handed over byte by byte, each byte placed at the head of the
input and collected; `Delivered` says where the DU stands on the way. -/

namespace Sys2Proof

open Sys2Proof.Machine

/-! ### The instruction and its frame do not depend on the ROM used to deliver it -/

theorem decode_of_not_open {r r' : Rom} {op : Byte} (h : UOp.ofByte op = none) (pay : List Byte) :
    decode r (op :: pay) = decode r' (op :: pay) := by
  have hlen : r.len op = r'.len op := by simp only [Rom.len, Rom.shape, h]
  have hinstr (a b : Field) (v : Wide) : instrOf r op a b v = instrOf r' op a b v := by simp only [instrOf, h]
  simp only [decode_cons, decodeFrame, hlen, hinstr]

theorem decode_fetchRom (s : State) (op : Byte) (pay : List Byte) :
    decode (fetchRom s op) (op :: pay) = decode (probeRom op) (op :: pay) := by
  cases h : UOp.ofByte op with
  | none => exact decode_of_not_open h pay
  | some u => simp [fetchRom, h]

/-- The bytes after its frame do not change the instruction of a frame (R86). -/
theorem decode_frame_alone {r : Rom} {op : Byte} {pay rest : List Byte} {i : Instr}
    (h : decode r (op :: pay) = .ok (i, rest)) :
    decode r (op :: pay.take (r.len op - 1)) = .ok (i, []) := by
  obtain ⟨hwf, hbytes⟩ := encodeOfDecode r (op :: pay) i rest h
  obtain ⟨-, hrest⟩ := decode_eq_ok h
  have hframe : encode r i = op :: pay.take (r.len op - 1) := by
    rw [← List.append_left_inj rest, hbytes, hrest, List.cons_append, List.take_append_drop]
  rw [← hframe, ← decodeOfEncode r i [] hwf, List.append_nil]

theorem decode_of_decodeTableWord {nbits w : Nat} {i : Instr} (h : decodeTableWord nbits w = some i) :
    ∃ rest, decode (probeRom (tableByte nbits w 0)) (tableBytes nbits w) = .ok (i, rest) := by
  unfold decodeTableWord at h
  split at h
  · next j rest hdec =>
    cases h
    exact ⟨rest, hdec⟩
  · cases h

end Sys2Proof

namespace Sys2Proof.Machine

/-! ### A frame handed over byte by byte -/

/-- A byte completes its frame exactly when the frame then has the length its opcode byte gives (R141). -/
theorem frameCompletes_iff_length {s : State} {b op : Byte} {pay : List Byte} (h : DuConsistent s.rom s.d)
    (hd : s.d.state = .opc ∨ s.d.state = .pay) (hframe : pendingBytes s.d ++ [b] = op :: pay) :
    frameCompletes s b = true ↔ pay.length + 1 = s.rom.len op := by
  rcases hd with hd | hd
  · rw [pendingBytes_of_opc hd] at hframe
    cases hframe
    simp [frameCompletes, hd, eq_comm]
  · rw [pendingBytes_of_pay hd, List.cons_append] at hframe
    obtain ⟨rfl, rfl⟩ := List.cons.inj hframe
    obtain ⟨-, hidx⟩ := h.payIdx_lt hd
    have htake : (s.d.pay.toList.take s.d.payIdx.toNat).length = s.d.payIdx.toNat := by
      rw [List.length_take, Nat.min_eq_left]
      exact hidx.le
    have hlast : frameCompletes s b = true ↔ s.d.payIdx + 1 = s.d.curLen - 1 := by simp [frameCompletes, hd]
    rw [hlast, last_payload_iff (h.pay_open hd), h.curLen_eq, List.length_append, htake, List.length_singleton]

/-- A byte presented to the DU and collected (log 7). -/
def handOver (u : State) (b : Byte) : State := collectByte b { u with input := .byte b :: u.input }

theorem deliverFrame_concat (r : Rom) (pre : List Byte) (last : Byte) (s : State) :
    deliverFrame r (pre ++ [last]) s =
      let t := pre.foldl handOver { headerReceived s with rom := r }
      { t with input := .byte last :: t.input } := by
  rw [deliverFrame, List.dropLast_concat, List.getLast?_concat]
  rfl

/-- The DU has received the header and the bytes `pre` of the first frame under the ROM `r`, and all else is as it is in
`s`. -/
structure Delivered (s : State) (r : Rom) (pre : List Byte) (u : State) : Prop where
  rom : u.rom = r
  encoder : u.e = s.e
  input : u.input = s.input
  state : u.d.state = .opc ∨ u.d.state = .pay
  du : DuConsistent u.rom u.d
  pending : pendingBytes u.d = pre
  cursor : u.d.cursor.toNat = 4 + pre.length

theorem delivered_headerReceived (s : State) (r : Rom) : Delivered s r [] { headerReceived s with rom := r } :=
  { rom := rfl
    encoder := rfl
    input := rfl
    state := .inl rfl
    du := .of_opc rfl (len_zero r).symm rfl (show 4 ≤ (4 : Count).toNat from le_refl 4) rfl (Nat.zero_le _)
    pending := rfl
    cursor := rfl }

section
variable {s u : State} {r : Rom} {pre rest : List Byte} {b op : Byte} {pay : List Byte}

/-- A frame is far shorter than the longest stream. -/
theorem Delivered.not_full (h : Delivered s r pre u) (hframe : pre ++ b :: rest = op :: pay)
    (hlen : pay.length + 1 = r.len op) : streamFull u = false := by
  have htotal := congrArg List.length hframe
  rw [List.length_append, List.length_cons, List.length_cons, hlen] at htotal
  have hbound := len_cases r op
  refine not_full_of_cursor_lt ?_
  rw [h.cursor, maxStreamLen]
  omega

/-- A byte before the last one of its frame is collected. -/
theorem Delivered.handOver (h : Delivered s r pre u) (hframe : pre ++ b :: rest = op :: pay)
    (hlen : pay.length + 1 = r.len op) (hrest : rest ≠ []) : Delivered s r (pre ++ [b]) (handOver u b) := by
  have hopen : frameCompletes u b = false := by
    obtain ⟨op', got, hgot⟩ :=
      List.exists_cons_of_ne_nil (List.append_ne_nil_of_right_ne_nil pre (List.cons_ne_nil b []))
    rw [List.append_cons, hgot, List.cons_append] at hframe
    obtain ⟨rfl, rfl⟩ := List.cons.inj hframe
    have hshort := List.length_pos_of_ne_nil hrest
    rw [List.length_append] at hlen
    rw [Bool.eq_false_iff, Ne, frameCompletes_iff_length h.du h.state (h.pending.symm ▸ hgot), h.rom]
    omega
  have hfull := h.not_full hframe hlen
  have hcursor : (collectByte b u).d.cursor.toNat = 4 + pre.length + 1 := by
    rw [collectByte_cursor h.state, count_toNat_succ (cursor_lt_of_not_full hfull), h.cursor]
  exact
    { rom := h.rom
      encoder := h.encoder
      input := h.input
      state := .inr (show (collectByte b u).d.state = .pay by simp [hopen])
      du := h.du.collect h.state b hfull
      pending := (pendingBytes_collectByte h.du h.state hopen).trans (by rw [h.pending])
      cursor := by rw [List.length_append, List.length_singleton]; exact hcursor }

/-- All bytes of a frame but the last are collected. -/
theorem Delivered.foldl {last : Byte} {bs : List Byte} (h : Delivered s r pre u)
    (hframe : pre ++ bs ++ [last] = op :: pay) (hlen : pay.length + 1 = r.len op) :
    Delivered s r (pre ++ bs) (bs.foldl Machine.handOver u) := by
  induction bs generalizing pre u with
  | nil => rwa [List.append_nil]
  | cons b bs ih =>
    have hnext := h.handOver (rest := bs ++ [last]) (by rw [← hframe, List.append_assoc]; rfl) hlen (by simp)
    rw [List.append_cons pre] at hframe ⊢
    exact ih hnext hframe

end

/-- A delivered frame is complete but for its last byte, which is at the head of the input (log 7). -/
theorem deliverFrame_lastByte (s : State) {r : Rom} {op : Byte} {pay : List Byte} (hlen : pay.length + 1 = r.len op) :
    ∃ last, LastByte (deliverFrame r (op :: pay) s) last s.input ∧
      frameBytes (deliverFrame r (op :: pay) s) last = op :: pay ∧
      (deliverFrame r (op :: pay) s).rom = r ∧ (deliverFrame r (op :: pay) s).e = s.e := by
  obtain ⟨pre, last, hframe⟩ := List.eq_nil_or_concat' (op :: pay) |>.resolve_left (List.cons_ne_nil op pay)
  rw [hframe, deliverFrame_concat]
  have h : Delivered s r pre (pre.foldl handOver { headerReceived s with rom := r }) :=
    (delivered_headerReceived s r).foldl hframe.symm hlen
  have hpending := congrArg (· ++ [last]) h.pending
  have hcompletes := (frameCompletes_iff_length h.du h.state (hpending.trans hframe.symm)).mpr (by rw [h.rom, hlen])
  exact ⟨last,
    { input := congrArg (HostEvent.byte last :: ·) h.input
      completes := hcompletes
      fits := cursor_lt_of_not_full (h.not_full hframe.symm hlen) },
    (frameBytes_eq_pendingBytes h.du hcompletes).trans hpending, h.rom, h.encoder⟩

/-- The event after a delivered frame runs the instruction the frame decodes to, in the DU alone. -/
theorem step_deliverFrame (s : State) {r : Rom} {op : Byte} {pay : List Byte} {i : Instr}
    (hlen : pay.length + 1 = r.len op) (hdec : decode r (op :: pay) = .ok (i, [])) :
    step (deliverFrame r (op :: pay) s) = exec i (deliverFrame r (op :: pay) s) ∧
      ∃ t, step (deliverFrame r (op :: pay) s) = .next t ∧ t.e = s.e ∧ t.input = s.input := by
  obtain ⟨last, ⟨hin, hcompletes, hfits⟩, hbytes, hrom, he⟩ := deliverFrame_lastByte s hlen
  refine ⟨step_of_fetch ?_, _, step_of_completes hin hcompletes (not_full_of_cursor_lt hfits) hbytes, he, ?_⟩
  · simp only [fetchInstr, hin, hcompletes, hbytes, hrom, hdec, reduceIte]
  · exact (congrArg List.tail hin).trans (List.tail_cons ..)

/-- Settles O29: the frame of the word is delivered up to its last byte, and that byte completes it. -/
theorem deliveredTableWordRuns : Obligations.DeliveredTableWordRuns := by
  intro s nbits w i hword
  obtain ⟨later, hdec⟩ := decode_of_decodeTableWord hword
  rw [tableBytes, ← decode_fetchRom s] at hdec
  obtain ⟨hlong, -⟩ := decode_eq_ok hdec
  have hpos : 0 < (fetchRom s (tableByte nbits w 0)).len (tableByte nbits w 0) := by
    have := len_cases (fetchRom s (tableByte nbits w 0)) (tableByte nbits w 0)
    omega
  rw [State.withFetchWord, tableBytes, List.take_cons hpos]
  exact step_deliverFrame s (by rw [List.length_take]; omega) (decode_frame_alone hdec)

end Sys2Proof.Machine

/-! The operand datapath (40_operand_datapath R110 to R126): the scalar codec on the two halves of its byte range, the
validation of an operand by whether its magnitude is above its ceiling, and the operand codec built from the two. -/

namespace Sys2Proof.Machine

/-! ### Scalars (R110, R111) -/

/-- A byte is a magnitude up to 127, or such a magnitude tagged by adding 128 (20_memory R57). -/
theorem byte_cases (b : Byte) : b ≤ 127 ∨ ∃ n : Byte, n ≤ 127 ∧ b = n + 128 := by
  by_cases h : b ≤ 127
  · exact .inl h
  · exact .inr ⟨b - 128, by bv_omega, by bv_omega⟩

theorem svd_of_le : ∀ {n : Byte}, n ≤ 127 → svd n = { src := .num, mag := n } := by decide

theorem svd_add_128 : ∀ {n : Byte}, n ≤ 127 → svd (n + 128) = { src := .buf, mag := n } := by decide

section
variable {n : Byte}

theorem sve_num_of_le (h : n ≤ 127) : sve { src := .num, mag := n } = some n := congrArg some (if_pos h)

theorem sve_num_of_lt (h : 127 < n) : sve { src := .num, mag := n } = some 127 :=
  congrArg some (if_neg (BitVec.not_le.mpr h))

theorem sve_buf_of_le (h : n ≤ 127) : sve { src := .buf, mag := n } = some (n + 128) := if_pos h

theorem sve_buf_of_lt (h : 127 < n) : sve { src := .buf, mag := n } = none := if_neg (BitVec.not_le.mpr h)

end

/-- Every scalar byte is what the encoder makes of the scalar it decodes to (R123). -/
theorem sve_svd (b : Byte) : sve (svd b) = some b := by
  rcases byte_cases b with h | ⟨n, h, rfl⟩
  · rw [svd_of_le h, sve_num_of_le h]
  · rw [svd_add_128 h, sve_buf_of_le h]

/-- Settles O8. -/
theorem scalarRoundTrips : Obligations.ScalarRoundTrips := by
  refine ⟨sve_svd, fun src n h => ?_⟩
  cases src
  · rw [sve_num_of_le h, Option.map_some, svd_of_le h]
  · rw [sve_buf_of_le h, Option.map_some, svd_add_128 h]

/-- Settles O9. -/
theorem scalarEncodeRule : Obligations.ScalarEncodeRule :=
  fun _ => ⟨sve_num_of_le, sve_num_of_lt, sve_buf_of_le, sve_buf_of_lt⟩

/-- A scalar that fits seven magnitude bits is encoded with its source tag at bit 7 (R78, R111). -/
theorem sve_eq_append {sc : Scalar} (h : sc.mag ≤ 127) : sve sc = some (srcBit sc.src ++ sc.mag.extractLsb' 0 7) := by
  have htag : ∀ n : Byte, n ≤ 127 →
      srcBit .num ++ n.extractLsb' 0 7 = n ∧ srcBit .buf ++ n.extractLsb' 0 7 = n + 128 := by decide
  obtain ⟨src, n⟩ := sc
  obtain ⟨hnum, hbuf⟩ := htag n h
  cases src
  · rw [sve_num_of_le h, hnum]
  · rw [sve_buf_of_le h, hbuf]

/-! ### Clamping (R113 to R116) -/

theorem clamp_mag_toNat (sc : Scalar) (lo hi : Byte) :
    (clamp sc lo hi).1.mag.toNat = min (max sc.mag.toNat lo.toNat) hi.toNat := by
  simp only [clamp, BitVec.le_def]
  split_ifs <;> omega

/-- Settles O10. -/
theorem clampRule : Obligations.ClampRule :=
  fun sc lo hi _ => ⟨rfl, clamp_mag_toNat sc lo hi, decide_eq_true_iff⟩

section
variable {o : Operand}

theorem clamp_zero (sc : Scalar) (hi : Byte) :
    clamp sc 0 hi = if sc.mag ≤ hi then (sc, false) else ({ src := sc.src, mag := hi }, true) := by
  have hlo : (0 : Byte) ≤ sc.mag := by bv_omega
  have hsame : ¬ sc.mag < sc.mag := BitVec.lt_irrefl _
  simp only [clamp, hlo, if_true]
  split_ifs with h
  · simp [hsame]
  · simp [BitVec.not_le.mp h]

theorem validate_of_le (h : o.sc.mag ≤ ceil o.kind) : validate o = (o, false) := by
  rw [validate, clamp_zero, if_pos h]

theorem validate_of_lt (h : ceil o.kind < o.sc.mag) :
    validate o = ({ kind := o.kind, sc := { src := o.sc.src, mag := ceil o.kind } }, true) := by
  rw [validate, clamp_zero, if_neg (BitVec.not_le.mpr h)]

/-- Validation brings the magnitude to its kind's ceiling at most, and keeps the kind and the source tag (R115). -/
theorem validate_bounds (o : Operand) :
    (validate o).1.kind = o.kind ∧ (validate o).1.sc.src = o.sc.src ∧ (validate o).1.sc.mag ≤ ceil o.kind := by
  by_cases h : o.sc.mag ≤ ceil o.kind
  · rw [validate_of_le h]
    exact ⟨rfl, rfl, h⟩
  · rw [validate_of_lt (BitVec.not_le.mp h)]
    exact ⟨rfl, rfl, BitVec.le_refl _⟩

/-- The ceilings of the 11 kinds leave bit 7 to the source tag (R114). -/
theorem ceil_le_127 : ∀ {k : Kind}, k ≤ 0xA → ceil k ≤ 127 := by decide

end

/-- Settles O12: what validation gives is within its ceiling, where it changes nothing. -/
theorem validateIdempotent : Obligations.ValidateIdempotent := by
  intro o
  obtain ⟨hkind, -, hmag⟩ := validate_bounds o
  exact ⟨validate_of_le (hkind ▸ hmag), validate_of_le⟩

/-- Settles O13: the ceilings are at most 127, where the scalar encoder is exact for both source tags. -/
theorem validatedScalarNeverRefused : Obligations.ValidatedScalarNeverRefused := by
  intro o hk
  obtain ⟨-, hsrc, hmag⟩ := validate_bounds o
  have hceil := ceil_le_127 hk
  have hfits : (validate o).1.sc.mag ≤ 127 := BitVec.le_trans hmag hceil
  refine ⟨hmag, hceil, ?_⟩
  rw [← hsrc]
  generalize (validate o).1.sc = sc at hfits ⊢
  obtain ⟨src, n⟩ := sc
  cases src
  · exact sve_num_of_le hfits
  · exact sve_buf_of_le hfits

/-! ### Operands (R117, R119) -/

/-- An operand of a known kind is encoded as its kind and the scalar byte of its validated scalar (R117, R124). -/
theorem ope_of_known {o : Operand} (h : o.kind ≤ 0xA) :
    ope o = some ([o.kind.setWidth 8,
      srcBit o.sc.src ++ (validate o).1.sc.mag.extractLsb' 0 7], (validate o).2) := by
  obtain ⟨hkind, hsrc, hmag⟩ := validate_bounds o
  rw [ope, sve_eq_append (BitVec.le_trans hmag (ceil_le_127 h)), Option.map_some, hkind, hsrc]

section
variable {k s : Byte}

theorem opd_of_known (h : k ≤ 0x0A) : opd k s = ({ kind := k.setWidth 4, sc := svd s }, false) := if_pos h

theorem opd_of_unknown (h : 0x0A < k) : opd k s = (zeroOperand, true) := if_neg (BitVec.not_le.mpr h)

theorem kind_le_of_known : ∀ {k : Byte}, k ≤ 0x0A → k.setWidth 4 ≤ (0xA : Kind) := by decide

/-- No bit of a known kind byte is lost in the record's 4-bit kind field (00_scope R13). -/
theorem setWidth_kind_of_known : ∀ {k : Byte}, k ≤ 0x0A → (k.setWidth 4 : Kind).setWidth 8 = k := by decide

theorem opd_unk_iff : (opd k s).2 = true ↔ 0x0A < k := by
  by_cases h : k ≤ 0x0A
  · rw [opd_of_known h]
    exact iff_of_false Bool.false_ne_true (BitVec.not_lt.mpr h)
  · rw [opd_of_unknown (BitVec.not_le.mp h)]
    exact iff_of_true rfl (BitVec.not_le.mp h)

end

/-- Settles O14. -/
theorem operandDecodeInBounds : Obligations.OperandDecodeInBounds := by
  intro k s
  obtain ⟨hmag, hkind⟩ := opd_bounds k s
  exact ⟨hkind, by bv_omega, opd_unk_iff⟩

/-- Settles O15: a known kind keeps its scalar byte, in range or brought down to the ceiling; an unknown one has been
decoded to the zero operand. -/
theorem operandRoundTrip : Obligations.OperandRoundTrip := by
  intro k s
  have hsrc : srcBit (svd s).src ++ (svd s).mag.extractLsb' 0 7 = s := scalarByte_fieldOf k s
  refine ⟨fun hk hle => ?_, fun hk hlt => ?_, fun hk => ?_⟩
  · rw [opd_of_known hk, ope_of_known (kind_le_of_known hk), validate_of_le hle, setWidth_kind_of_known hk, hsrc]
  · rw [opd_of_known hk, ope_of_known (kind_le_of_known hk), validate_of_lt hlt, setWidth_kind_of_known hk]
  · rw [opd_of_unknown hk]
    rfl

/-! ### Wide integers (R121, R122) -/

theorem wideDec_toNat (hi lo : Byte) : (wideDec hi lo).toNat = hi.toNat * 256 + lo.toNat := by
  rw [wideDec_eq_append, BitVec.toNat_append, ← Nat.shiftLeft_add_eq_or_of_lt lo.isLt, Nat.shiftLeft_eq]

/-- Settles O16. -/
theorem wideRoundTrip : Obligations.WideRoundTrip :=
  ⟨fun v => ⟨_, _, rfl, wideDec_wideEnc v⟩, fun hi lo => ⟨wideEnc_wideDec hi lo, wideDec_toNat hi lo⟩⟩

end Sys2Proof.Machine

/-! What an instruction does on each side (43_nsl_instructions R210 to R239). A meaning that meets its event is
`finishFrame` in the DU or `sendFrame` in the EU; the effect of each on the whole state is proved once, and the
instructions only differ in the record or the bytes of their opcode byte and body. -/

namespace Sys2Proof.Machine

/-! ### The DU side: a completed frame (41_frame_decoder R148, R150, R152) -/

theorem collectByte_frameBase {s : State} (hd : s.d.state = .opc ∨ s.d.state = .pay) (b : Byte) :
    (collectByte b s).d.frameBase = arrivingBase s := by
  rcases hd with hd | hd
  · rw [collectByte_d_of_opc hd]
    simp [latchOpcode, arrivingBase, hd]
  · rw [collectByte_d_of_pay hd]
    simp [latchPayload, arrivingBase, hd]

/-- Latching a byte keeps what belongs to the header and the error. -/
theorem latchByte_kept (r : Rom) (b : Byte) (d : DecoderUnit) :
    (latchByte r b d).hdrIdx = d.hdrIdx ∧ (latchByte r b d).version = d.version ∧
      (latchByte r b d).versionValid = d.versionValid ∧ (latchByte r b d).err = d.err := by
  unfold latchByte
  split <;> exact ⟨rfl, rfl, rfl, rfl⟩

section
variable {s : State} {last : Byte} {rest : List HostEvent}

/-- A frame finished with its last byte is completed with the reconstruction of its instruction. -/
theorem finishFrame_completes (h : LastByte s last rest) (op : Byte) (body : Body) :
    DuCompletes s (finishFrame op body last s) last rest (reconBody op body)
      (reconDiags (arrivingBase s) op body) := by
  obtain ⟨hin, hc, -⟩ := h
  have hd := state_of_completes hc
  constructor
  case input => rw [finishFrame_input, hin, List.tail_cons]
  case out => rw [finishFrame_dOut, collectByte_frameBase hd]
  case state => simp [hc]
  case cursor => exact collectByte_cursor hd last
  case reccount => rw [finishFrame_d, collectByte_reccount hd]
  case frameBase => exact collectByte_frameBase hd last
  case opcode_latched =>
    intro hopc
    rw [finishFrame_d, collectByte_d_of_opc hopc]
    exact ⟨rfl, rfl, rfl, rfl⟩
  case payload_latched =>
    intro hpay
    rw [finishFrame_d, collectByte_d_of_pay hpay]
    exact ⟨rfl, rfl, rfl, rfl⟩
  case unit_kept => exact latchByte_kept s.rom last s.d
  case received => exact inByte_of_write rfl
  case rom_kept => rfl
  case encoder_kept => exact ⟨rfl, rfl⟩
  case output_kept => exact fun _ => rfl

/-- Every instruction completes at the last byte of a frame. -/
theorem exec_completes (h : LastByte s last rest) (i : Instr) :
    ∃ t, exec i s = .next t ∧ DuCompletes s t last rest (reconBody (i.opcode s.rom) i.body)
      (reconDiags (arrivingBase s) (i.opcode s.rom) i.body) := by
  refine ⟨_, ?_, finishFrame_completes h _ _⟩
  rw [exec_eq_runFrame, runFrame_byte _ _ _ _ _ h.input h.completes, decodeLast, not_full_of_cursor_lt h.fits]
  rfl

end

/-! ### The record of an instruction (41_frame_decoder R142 to R144, 40_operand_datapath R119) -/

/-- An operand that fits its frame is reconstructed as it stands, or as the zero operand for an unknown kind. -/
theorem reconField_eq {f : Field} (h : f.magFits = true) : reconField f = decodedOperand f := by
  have hscalar : svd (Field.scalarByte f) = { src := f.src, mag := f.mag } :=
    congrArg (fun g : Field => Scalar.mk g.src g.mag) (fieldOf_scalarByte f h)
  unfold reconField decodedOperand
  split_ifs with hk
  · rw [opd_of_known hk, hscalar]
  · rw [opd_of_unknown (BitVec.not_le.mp hk)]

theorem kindDiags_fieldUnknown (off : Count) (f : Field) :
    kindDiags off f.kind (fieldUnknown f) = unknownKindAt off f := by
  unfold fieldUnknown unknownKindAt
  split_ifs with hk
  · rw [opd_of_known hk]
    rfl
  · rw [opd_of_unknown (BitVec.not_le.mp hk)]
    rfl

section
variable {op : Byte} (h : opKnown op = true)
include h

theorem varOp_of_known : varOp op = op := if_pos h

theorem skel_of_known : skel op = { op := op, a := zeroOperand, b := zeroOperand, w := 0 } := by
  rw [skel, varOp_of_known h]

theorem opcodeDiags_of_known (fb : Count) : opcodeDiags fb op = [] := if_pos h

theorem reconDiags_one (fb : Count) (a : Field) : reconDiags fb op (.o a) = unknownKindAt (fb + 1) a := by
  rw [reconDiags, opcodeDiags_of_known h, kindDiags_fieldUnknown, List.nil_append]

theorem reconDiags_two (fb : Count) (a b : Field) :
    reconDiags fb op (.t a b) = unknownKindAt (fb + 1) a ++ unknownKindAt (fb + 3) b := by
  rw [reconDiags, opcodeDiags_of_known h, kindDiags_fieldUnknown, kindDiags_fieldUnknown, List.nil_append]

theorem reconBody_two {a b : Field} (ha : a.magFits = true) (hb : b.magFits = true) :
    reconBody op (.t a b) = { op := op, a := decodedOperand a, b := decodedOperand b, w := 0 } := by
  rw [reconBody, skel_of_known h, reconField_eq ha, reconField_eq hb]

end

/-- Settles O18. -/
theorem loopSetFrameDecodes : Obligations.LoopSetFrameDecodes := by
  intro s last rest a h ha
  have hop : opKnown 0xC0 = true := rfl
  rw [← reconDiags_one hop, ← reconField_eq ha]
  exact exec_completes h (.loopSet a)

/-- Settles O19. -/
theorem jumpFrameDecodes : Obligations.JumpFrameDecodes := by
  intro s last rest v h
  have hop := opKnown_byte s.rom.opcJump
  have hrec := exec_completes h (.jump v)
  simp only [Instr.opcode, Instr.body, reconBody, reconDiags, skel_of_known hop, opcodeDiags_of_known hop] at hrec
  exact hrec

/-- Settles O20. -/
theorem setFrameDecodes : Obligations.SetFrameDecodes := by
  intro s last rest a b h ha hb
  have hop : opKnown 0xA1 = true := rfl
  rw [← reconDiags_two hop, ← reconBody_two hop ha hb]
  exact exec_completes h (.set a b)

/-- Settles O21. -/
theorem openOpcodeFramesDecode : Obligations.OpenOpcodeFramesDecode := by
  intro s last rest u h
  have hop := opKnown_byte u
  have hform (p : OpenForm) := exec_completes h (Instr.ofOpen u p)
  simp only [opcode_ofOpen, body_ofOpen] at hform
  refine ⟨?_, fun a b ha hb => ?_⟩
  · rw [← skel_of_known hop, ← opcodeDiags_of_known hop (arrivingBase s)]
    exact hform .zero
  · rw [← reconDiags_two hop, ← reconBody_two hop ha hb]
    exact hform (.two a b)

/-! ### The EU side: a frame sent (42_frame_encoder R182, 40_operand_datapath R118) -/

/-- Bytes written at an offset of the output are the only change to it (20_memory R52). -/
theorem outByte_of_writes {s t : State} {n : Nat} {bs : List Byte} (h : t.sOut = Memory.writes s.sOut n bs) (a : Nat) :
    t.outByte a = if n ≤ a ∧ a < n + bs.length then bs[a - n]? else s.outByte a := by
  rw [State.outByte, h, read_writes, State.outByte]

section
variable {s : State} {rec : Record} {rest : List HostEvent}

theorem sendFrame_sends (h : RecordArrives s rec rest) (bs : List Byte) (clamps : List Diag) :
    EuSends s (sendFrame bs clamps s) rest bs clamps := by
  obtain ⟨hin, hrun⟩ := h
  exact
    { input := by rw [sendFrame_input, hin, List.tail_cons]
      out := sendFrame_eOut bs clamps s
      state := (sendFrame_e_state bs clamps s).trans hrun
      err := sendFrame_e_err bs clamps s
      bytecount := sendFrame_e_bytecount bs clamps s
      reccount := sendFrame_e_reccount bs clamps s
      clamped := sendFrame_e_clamped bs clamps s
      clampcount := sendFrame_e_clampcount bs clamps s
      written := outByte_of_writes (sendFrame_sOut bs clamps s)
      rom_kept := sendFrame_rom bs clamps s
      decoder_kept := ⟨sendFrame_d bs clamps s, sendFrame_dOut bs clamps s⟩
      input_kept := fun a => by rw [State.inByte, sendFrame_sIn, State.inByte] }

/-- An instruction whose kinds are known sends its bytes, where they fit the output. -/
theorem exec_sends (h : RecordArrives s rec rest) {i : Instr} {bs : List Byte} (hk : kindsKnown i.body = true)
    (hbs : encBody (i.opcode s.rom) i.body = some bs) (hfits : s.e.bytecount.toNat + bs.length ≤ maxStreamLen) :
    ∃ t, exec i s = .next t ∧ EuSends s t rest bs (bodyClamps i.body) := by
  refine ⟨_, ?_, sendFrame_sends h bs _⟩
  rw [exec_eq_runFrame, runFrame_record _ _ _ _ _ h.input h.running, encodeFrame, if_pos hk, hbs]
  exact if_pos (decide_eq_true hfits)

end

/-! ### The bytes of an instruction (42_frame_encoder R180, 40_operand_datapath R117, R121) -/

/-- What validation does to an operand given as a field, in closed form (R113, R115, R118). -/
theorem validate_operand (f : Field) :
    (validate (Field.operand f)).1.sc.mag = clampedMag f ∧ clampDiags (Field.operand f) = clampNote f := by
  unfold clampDiags clampedMag clampNote
  by_cases h : f.mag ≤ ceil (f.kind.setWidth 4)
  · rw [validate_of_le (o := Field.operand f) h, if_pos h, if_neg (BitVec.not_lt.mpr h)]
    exact ⟨rfl, rfl⟩
  · rw [validate_of_lt (o := Field.operand f) (BitVec.not_le.mp h), if_neg h, if_pos (BitVec.not_le.mp h)]
    exact ⟨rfl, rfl⟩

theorem clampDiags_operand (f : Field) : clampDiags (Field.operand f) = clampNote f := (validate_operand f).2

/-- An operand of a known kind has two bytes on the wire: R124 rules the scalar encoder's refusal out. -/
theorem ope_operand {f : Field} (h : f.kind ≤ 0x0A) :
    ope (Field.operand f) = some (operandWire f, (validate (Field.operand f)).2) := by
  obtain ⟨-, -, hsve⟩ := validatedScalarNeverRefused (Field.operand f) (kind_le_of_known h)
  obtain ⟨hkind, -, -⟩ := validate_bounds (Field.operand f)
  have hbyte : (validate (Field.operand f)).1.kind.setWidth 8 = f.kind :=
    (congrArg _ hkind).trans (setWidth_kind_of_known h)
  rw [ope, hsve, Option.map_some, hbyte, (validate_operand f).1, operandWire]
  obtain ⟨kind, src, mag⟩ := f
  cases src
  · rfl
  · rfl

theorem encBody_one (op : Byte) {a : Field} (ha : a.kind ≤ 0x0A) :
    encBody op (.o a) = some (varOp op :: operandWire a) := by
  rw [encBody, ope_operand ha, Option.map_some]

theorem encBody_two (op : Byte) {a b : Field} (ha : a.kind ≤ 0x0A) (hb : b.kind ≤ 0x0A) :
    encBody op (.t a b) = some (varOp op :: operandWire a ++ operandWire b) := by
  simp only [encBody, ope_operand ha, ope_operand hb]

theorem kindsKnown_two (a b : Field) : kindsKnown (.t a b) = true ↔ a.kind ≤ 0x0A ∧ b.kind ≤ 0x0A := by
  simp only [kindsKnown, Bool.and_eq_true, decide_eq_true_eq]

/-- Where the kinds are known the bytes of an instruction exist: no scalar is refused (R124). -/
theorem encBody_of_kindsKnown (op : Byte) {body : Body} (h : kindsKnown body = true) :
    ∃ bs, encBody op body = some bs := by
  cases body with
  | z => exact ⟨_, rfl⟩
  | o a => exact ⟨_, encBody_one op (of_decide_eq_true h)⟩
  | w v => exact ⟨_, rfl⟩
  | t a b =>
    obtain ⟨ha, hb⟩ := (kindsKnown_two a b).mp h
    exact ⟨_, encBody_two op ha hb⟩

/-- The high byte of a wide integer first, then its low byte (R121). -/
theorem wideEnc_eq (v : Wide) : wideEnc v = [BitVec.ofNat 8 (v.toNat / 256), BitVec.ofNat 8 (v.toNat % 256)] := by
  have hhi : v.extractLsb' 8 8 = BitVec.ofNat 8 (v.toNat / 256) :=
    congrArg (BitVec.ofNat 8) (Nat.shiftRight_eq_div_pow v.toNat 8)
  have hlo : v.extractLsb' 0 8 = BitVec.ofNat 8 (v.toNat % 256) := by
    apply BitVec.eq_of_toNat_eq
    simp
  rw [wideEnc, hhi, hlo]

/-- Settles O23. -/
theorem loopSetRecordEncodes : Obligations.LoopSetRecordEncodes := by
  intro s rec rest a h ha hfits
  rw [← clampDiags_operand a]
  exact exec_sends h (i := .loopSet a) (decide_eq_true ha) (encBody_one 0xC0 ha) hfits

/-- Settles O24. -/
theorem jumpRecordEncodes : Obligations.JumpRecordEncodes := by
  intro s rec rest v h hfits
  have hbs : encBody s.rom.opcJump.byte (.w v) = some (s.rom.opcJump.byte :: wideEnc v) := by
    rw [encBody, varOp_of_known (opKnown_byte _)]
  rw [← wideEnc_eq]
  exact exec_sends h (i := .jump v) rfl hbs hfits

/-- Settles O25. -/
theorem setRecordEncodes : Obligations.SetRecordEncodes := by
  intro s rec rest a b h ha hb hfits
  rw [← clampDiags_operand a, ← clampDiags_operand b]
  exact exec_sends h (i := .set a b) ((kindsKnown_two a b).mpr ⟨ha, hb⟩) (encBody_two 0xA1 ha hb) hfits

/-- Settles O26. -/
theorem openOpcodeRecordsEncode : Obligations.OpenOpcodeRecordsEncode := by
  intro s rec rest u h
  have hop := varOp_of_known (opKnown_byte u)
  have hform (p : OpenForm) (bs : List Byte) := exec_sends h (i := Instr.ofOpen u p) (bs := bs)
  simp only [opcode_ofOpen, body_ofOpen] at hform
  refine ⟨fun hfits => ?_, fun a b ha hb hfits => ?_⟩
  · exact hform .zero [u.byte] rfl (congrArg (fun op => some [op]) hop) hfits
  · have hbs := encBody_two u.byte ha hb
    rw [hop] at hbs
    rw [← clampDiags_operand a, ← clampDiags_operand b]
    exact hform (.two a b) _ ((kindsKnown_two a b).mpr ⟨ha, hb⟩) hbs hfits

end Sys2Proof.Machine

/-! A record at the EU (42_frame_encoder R180 to R187): the body its opcode's shape takes from it, over which `WF` and
`ENCREC` are the checks and bytes of an instruction. -/

namespace Sys2Proof.Machine

/-- The body of a record: the fields its shape uses (42_frame_encoder R187). -/
def recordBody (r : Rom) (rec : Record) : Body :=
  (r.shape rec.op).bodyWith (fieldOfOperand rec.a) (fieldOfOperand rec.b) rec.w

@[simp] theorem operand_fieldOfOperand (o : Operand) : Field.operand (fieldOfOperand o) = o := by
  have hkind : (o.kind.setWidth 8).setWidth 4 = o.kind := by simp
  rw [fieldOfOperand, Field.operand, hkind]

theorem fieldOfOperand_known_iff (o : Operand) : (fieldOfOperand o).kind ≤ 0x0A ↔ o.kind ≤ 0xA := by
  have hkind : ∀ k : Kind, k.setWidth 8 ≤ (0x0A : Byte) ↔ k ≤ 0xA := by decide
  exact hkind o.kind

section
variable {r : Rom} {rec : Record}

/-- A record is well formed when its opcode is a variant's and the operands its shape uses have known kinds (R184). -/
theorem wfRecord_iff : wfRecord r rec = true ↔ opAdmitted rec.op = true ∧ kindsKnown (recordBody r rec) = true := by
  cases hs : r.shape rec.op <;>
    simp only [wfRecord, recordBody, kindsKnown, Shape.bodyWith, hs, Bool.and_eq_true, decide_eq_true_eq,
      fieldOfOperand_known_iff, and_true, and_assoc]

theorem varOp_of_admitted {op : Byte} (h : opAdmitted op = true) : varOp op = op := by
  unfold varOp
  split_ifs with hknown
  · rfl
  · have hzero : op = 0x00 := by simpa [opAdmitted, hknown] using h
    exact hzero.symm

/-- A record whose opcode is a variant's stands for the instruction with that opcode byte and its body. -/
theorem instrOfRecord_of_admitted (h : opAdmitted rec.op = true) :
    ∃ i, instrOfRecord r rec = some i ∧ i.opcode r = rec.op ∧ i.body = recordBody r rec :=
  ⟨_, if_pos h, instrOf_opcode .., instrOf_body ..⟩

/-- `ENCREC` over a record gives the bytes of its body (R180). -/
theorem encBody_recordBody (h : opAdmitted rec.op = true) :
    encBody rec.op (recordBody r rec) = (encRec r rec).map Prod.fst := by
  have hop := varOp_of_admitted h
  unfold encRec recordBody
  cases r.shape rec.op with
  | z => simp [Shape.bodyWith, encBody, hop]
  | o => simp [Shape.bodyWith, encBody, hop, Function.comp_def]
  | w => simp [Shape.bodyWith, encBody, hop]
  | t =>
    simp only [Shape.bodyWith, encBody, hop, operand_fieldOfOperand]
    cases ope rec.a <;> cases ope rec.b <;> rfl

theorem clampDiags_length {o : Operand} {p : List Byte × Bool} (h : ope o = some p) :
    (clampDiags o).length = [p.2].count true := by
  obtain ⟨sc, -, rfl⟩ := Option.map_eq_some_iff.mp h
  unfold clampDiags
  cases (validate o).2 <;> rfl

/-- `ENCREC` gives as many bytes as the frame of the opcode has, and a true event for each operand clamped (R180). -/
theorem encRec_counts {bytes : List Byte} {evts : List Bool} (h : encRec r rec = some (bytes, evts)) :
    bytes.length = r.len rec.op ∧ (bodyClamps (recordBody r rec)).length = evts.count true := by
  unfold encRec at h
  unfold Rom.len recordBody
  cases hs : r.shape rec.op with
  | z | w =>
    rw [hs] at h
    cases h
    exact ⟨rfl, rfl⟩
  | o =>
    rw [hs] at h
    obtain ⟨pa, ha, hout⟩ := Option.map_eq_some_iff.mp h
    cases hout
    refine ⟨congrArg (· + 1) (ope_length ha), ?_⟩
    rw [Shape.bodyWith, bodyClamps, operand_fieldOfOperand]
    exact clampDiags_length ha
  | t =>
    simp only [hs] at h
    split at h
    · next pa pb ha hb =>
      cases h
      have hlena := ope_length ha
      have hlenb := ope_length hb
      refine ⟨by simp [hlena, hlenb, Shape.len], ?_⟩
      rw [Shape.bodyWith, bodyClamps, operand_fieldOfOperand, operand_fieldOfOperand, List.length_append,
        clampDiags_length ha, clampDiags_length hb, ← List.count_append]
      rfl
    · cases h

end

/-- A record in `E_RUN` whose opcode is a variant's runs the instruction it stands for. -/
theorem fetchInstr_of_record {s : State} {rec : Record} {rest : List HostEvent} (h : RecordArrives s rec rest) :
    fetchInstr s = instrOfRecord s.rom rec := by
  simp only [fetchInstr, h.input, h.running, if_true]

/-- Settles O31: a well-formed record has an instruction with its opcode and body, and the bytes of that body are
`ENCREC`'s. -/
theorem encoderEmitsEncrec : Obligations.EncoderEmitsEncrec := by
  intro s rec rest h hwf
  obtain ⟨hop, hkinds⟩ := wfRecord_iff.mp hwf
  obtain ⟨i, hinstr, hopcode, hbody⟩ := instrOfRecord_of_admitted (r := s.rom) hop
  obtain ⟨bs, hbs⟩ := encBody_of_kindsKnown rec.op hkinds
  obtain ⟨⟨bytes, evts⟩, henc, rfl⟩ := Option.map_eq_some_iff.mp ((encBody_recordBody hop).symm.trans hbs)
  obtain ⟨hlen, hclamps⟩ := encRec_counts henc
  refine ⟨bytes, evts, henc, hlen, fun hfits => ?_⟩
  rw [← hbody] at hkinds hbs hclamps
  rw [← hopcode] at hbs
  obtain ⟨t, hexec, hsends⟩ := exec_sends h hkinds hbs hfits
  exact ⟨t, _, (step_of_fetch ((fetchInstr_of_record h).trans hinstr)).trans hexec, hsends, hclamps⟩

end Sys2Proof.Machine

/-! What a step can answer (60_exceptions R250, R255; 70_reset_and_hazards R286, R287). -/

namespace Sys2Proof.Machine

/-- A next state, or a refusal that the host contract gives: an event not admitted, or a length limit. -/
inductive WithinContract : Host.Outcome State Fault Refusal → Prop
  | next (t : State) : WithinContract (.next t)
  | notAdmitted : WithinContract (.refused .eventNotAdmitted)
  | streamTooLong : WithinContract (.refused .streamTooLong)
  | outputTooLong : WithinContract (.refused .outputTooLong)

/-- A byte is taken or drained unless the stream is then too long (R287). -/
theorem WithinContract.unlessFull (full : Bool) (t : State) :
    WithinContract (if full then .refused .streamTooLong else .next t) := by
  split_ifs
  · exact .streamTooLong
  · exact .next t

section
variable (s : State)

theorem onStartDecode_withinContract : WithinContract (onStartDecode s) := by
  unfold onStartDecode
  split <;> constructor

theorem onByte_withinContract (b : Byte) : WithinContract (onByte b s) := by
  unfold onByte
  split
  · exact .unlessFull _ _
  · exact .unlessFull _ _
  · exact .unlessFull _ _
  · exact .unlessFull _ _
  · exact .notAdmitted
  · exact .notAdmitted

theorem onEos_withinContract : WithinContract (onEos s) := by
  unfold onEos
  split <;> constructor

theorem onStartEncode_withinContract : WithinContract (onStartEncode s) := by
  unfold onStartEncode
  split <;> constructor

theorem onRecord_withinContract : WithinContract (onRecord s) := by
  unfold onRecord
  split <;> constructor

theorem onEndScript_withinContract : WithinContract (onEndScript s) := by
  unfold onEndScript
  split <;> constructor

theorem handleEvent_withinContract : WithinContract (handleEvent s) := by
  unfold handleEvent
  split
  · exact .next s
  · exact onStartDecode_withinContract s
  · exact onByte_withinContract s _
  · exact onEos_withinContract s
  · exact onStartEncode_withinContract s
  · exact onRecord_withinContract s
  · exact onEndScript_withinContract s
  · exact .next _

/-- Where the kinds are known the scalar encoder refuses nothing (R124), where one is not it is not asked. -/
theorem encodeFrame_withinContract (op : Byte) (body : Body) : WithinContract (encodeFrame op body s) := by
  unfold encodeFrame
  split_ifs with hk
  · obtain ⟨bs, hbs⟩ := encBody_of_kindsKnown op hk
    simp only [hbs]
    split_ifs
    · exact .next _
    · exact .outputTooLong
  · exact .next _

end

/-- An instruction is fetched only where the unit that runs it is receiving it (log 6). -/
theorem delivered_of_fetchInstr {s : State} {i : Instr} (h : fetchInstr s = some i) :
    (∃ last rest, s.input = .byte last :: rest ∧ frameCompletes s last = true) ∨
      ∃ rec rest, RecordArrives s rec rest := by
  unfold fetchInstr at h
  split at h
  · next last rest hin =>
    split_ifs at h with hc
    exact .inl ⟨last, rest, hin, hc⟩
  · next rec rest hin =>
    split_ifs at h with hrun
    exact .inr ⟨rec, rest, hin, hrun⟩
  · cases h

theorem exec_withinContract {s : State} {i : Instr} (h : fetchInstr s = some i) : WithinContract (exec i s) := by
  rw [exec_eq_runFrame]
  rcases delivered_of_fetchInstr h with ⟨last, rest, hin, hc⟩ | ⟨rec, rest, hin, hrun⟩
  · rw [runFrame_byte _ _ _ _ _ hin hc]
    exact .unlessFull _ _
  · rw [runFrame_record _ _ _ _ _ hin hrun]
    exact encodeFrame_withinContract s _ _

theorem step_withinContract (s : State) : WithinContract (step s) := by
  cases h : fetchInstr s with
  | some i => rw [step_of_fetch h]; exact exec_withinContract h
  | none => rw [step_of_no_fetch h]; exact handleEvent_withinContract s

/-- Settles O45. -/
theorem onlyTheHostContractRefuses : Obligations.OnlyTheHostContractRefuses := by
  intro s
  have h := step_withinContract s
  generalize step s = out at h
  cases h with
  | next t => exact .inl ⟨t, rfl⟩
  | notAdmitted => exact .inr (.inl rfl)
  | streamTooLong => exact .inr (.inr (.inl rfl))
  | outputTooLong => exact .inr (.inr (.inr rfl))

end Sys2Proof.Machine

/-! Whole streams and whole scripts (41_frame_decoder R155, R159, R160; 42_frame_encoder R188, R190, R191). `DECODE` and
`ENCODE` go frame by frame and record by record, so each round trip is a fact about one frame and an induction: a
canonical record is what its own frame reconstructs to, and the frame of a reconstructed record is the frame it came
from exactly where nothing was normalised on the way. -/

namespace Sys2Proof.Machine

/-! ### Header rejection (41_frame_decoder R159) -/

theorem tagged_eq_false_iff (bytes : List Byte) :
    tagged bytes = false ↔ bytes.length < 3 ∨ bytes.take 3 ≠ [0x4E, 0x53, 0x4C] := by
  rw [tagged, Bool.and_eq_false_iff, decide_eq_false_iff_not, not_le, beq_eq_false_iff_ne]
  rfl

theorem decodeStream_eq_errHeader_iff (r : Rom) (bytes : List Byte) :
    (decodeStream r bytes).1 = .errHeader ↔ tagged bytes = false := by
  unfold decodeStream
  split_ifs with htag htrunc <;> simp [htag]

/-- Settles O60. -/
theorem headerRejection : Obligations.HeaderRejection := by
  intro r bytes
  refine ⟨(decodeStream_eq_errHeader_iff r bytes).trans (tagged_eq_false_iff bytes), fun hstatus => ?_⟩
  rw [decodeStream_records, if_neg hstatus]

/-! ### A canonical record is what its frame reconstructs to (10_state R34) -/

section
variable {r : Rom} {x : Record}

theorem CanonicalRecord.wfRecord (h : CanonicalRecord r x) : wfRecord r x = true := by
  obtain ⟨hakind, hbkind⟩ := h.kinds
  refine wfRecord_iff.mpr ⟨h.op_admitted, ?_⟩
  unfold recordBody
  cases r.shape x.op with
  | z | w => rfl
  | o => exact decide_eq_true ((fieldOfOperand_known_iff x.a).mpr hakind)
  | t =>
    exact (kindsKnown_two _ _).mpr ⟨(fieldOfOperand_known_iff x.a).mpr hakind, (fieldOfOperand_known_iff x.b).mpr hbkind⟩

/-- An operand with a known kind and a seven-bit magnitude is reconstructed from its field. -/
theorem reconField_fieldOfOperand {o : Operand} (hkind : o.kind ≤ 0xA) (hmag : o.sc.mag < 128) :
    reconField (fieldOfOperand o) = o := by
  rw [reconField_eq (decide_eq_true hmag), decodedOperand, if_pos ((fieldOfOperand_known_iff o).mpr hkind)]
  exact operand_fieldOfOperand o

/-- The body of a canonical record keeps all of it: the fields it leaves out are zero. -/
theorem reconBody_recordBody (h : CanonicalRecord r x) : reconBody x.op (recordBody r x) = x := by
  obtain ⟨hamag, hbmag⟩ := h.mags
  obtain ⟨hakind, hbkind⟩ := h.kinds
  have hskel : skel x.op = { op := x.op, a := zeroOperand, b := zeroOperand, w := 0 } := by
    rw [skel, varOp_of_admitted h.op_admitted]
  unfold recordBody
  obtain ⟨op, a, b, w⟩ := x
  have ha : r.shape op = .z ∨ r.shape op = .w → a = zeroOperand := h.a_unused
  have hb : r.shape op ≠ .t → b = zeroOperand := h.b_unused
  have hw : r.shape op ≠ .w → w = 0 := h.w_unused
  cases hs : r.shape op with
  | z =>
    rw [ha (.inl hs), hb (by simp [hs]), hw (by simp [hs])]
    exact hskel
  | o =>
    rw [hb (by simp [hs]), hw (by simp [hs])]
    simp [Shape.bodyWith, reconBody, hskel, reconField_fieldOfOperand hakind hamag]
  | w =>
    rw [ha (.inr hs), hb (by simp [hs])]
    simp [Shape.bodyWith, reconBody, hskel]
  | t =>
    rw [hw (by simp [hs])]
    simp [Shape.bodyWith, reconBody, hskel, reconField_fieldOfOperand hakind hamag,
      reconField_fieldOfOperand hbkind hbmag]

theorem recordBody_shape (r : Rom) (x : Record) : (recordBody r x).shape = r.shape x.op := shape_bodyWith ..

theorem magsFit_recordBody (h : CanonicalRecord r x) : (recordBody r x).magsFit = true := by
  obtain ⟨hamag, hbmag⟩ := h.mags
  exact magsFit_bodyWith (decide_eq_true hamag) (decide_eq_true hbmag) _ _

theorem recon_recordBody (h : CanonicalRecord r x) (fb : Count) :
    (recon r fb x.op (bodyBytes (recordBody r x))).1 = x := by
  have hbody := bodyOfBytes_bodyBytes (magsFit_recordBody h) []
  rw [List.append_nil, recordBody_shape] at hbody
  rw [recon_eq_reconBody]
  exact (congrArg (reconBody x.op) hbody).trans (reconBody_recordBody h)

/-! ### The frame of a well-formed record is its normal form's (42_frame_encoder R180, R191) -/

theorem ope_eq_bytes {o : Operand} (h : o.kind ≤ 0xA) :
    ope o = some (Field.bytes (fieldOfOperand (validate o).1), (validate o).2) := by
  obtain ⟨hkind, hsrc, -⟩ := validate_bounds o
  rw [ope_of_known h, Field.bytes, Field.scalarByte, fieldOfOperand, hkind, hsrc]

/-- The operands that the shape of a well-formed record uses have known kinds (R184). -/
theorem kinds_of_wfRecord (h : wfRecord r x = true) :
    (¬ (r.shape x.op = .z ∨ r.shape x.op = .w) → x.a.kind ≤ 0xA) ∧ (r.shape x.op = .t → x.b.kind ≤ 0xA) := by
  obtain ⟨-, hkinds⟩ := wfRecord_iff.mp h
  unfold recordBody at hkinds
  cases hs : r.shape x.op with
  | z | w => simp
  | o =>
    rw [hs] at hkinds
    exact ⟨fun _ => (fieldOfOperand_known_iff x.a).mp (of_decide_eq_true hkinds), fun ht => by cases ht⟩
  | t =>
    rw [hs] at hkinds
    obtain ⟨ha, hb⟩ := (kindsKnown_two _ _).mp hkinds
    exact ⟨fun _ => (fieldOfOperand_known_iff x.a).mp ha, fun _ => (fieldOfOperand_known_iff x.b).mp hb⟩

theorem norm_a (r : Rom) (x : Record) : (norm r x).a =
    if r.shape x.op = .z ∨ r.shape x.op = .w then zeroOperand else (validate x.a).1 := by
  cases hs : r.shape x.op <;> simp [norm, hs]

theorem norm_b (r : Rom) (x : Record) :
    (norm r x).b = if r.shape x.op ≠ .t then zeroOperand else (validate x.b).1 := by
  cases hs : r.shape x.op <;> simp [norm, hs]

theorem norm_w (r : Rom) (x : Record) : (norm r x).w = if r.shape x.op ≠ .w then 0 else x.w := by
  cases hs : r.shape x.op <;> simp [norm, hs]

theorem validate_canonical {o : Operand} (h : o.kind ≤ 0xA) :
    (validate o).1.sc.mag < 128 ∧ (validate o).1.kind ≤ 0xA := by
  obtain ⟨hkind, -, hmag⟩ := validate_bounds o
  have hceil := ceil_le_127 h
  exact ⟨by bv_omega, hkind ▸ h⟩

/-- The normal form of a well-formed record leaves the fields out that its shape does not use, and its magnitudes are
within their ceilings. -/
theorem norm_canonical (h : wfRecord r x = true) : CanonicalRecord r (norm r x) := by
  obtain ⟨hop, -⟩ := wfRecord_iff.mp h
  obtain ⟨ha, hb⟩ := kinds_of_wfRecord h
  have hzero : zeroOperand.sc.mag < 128 ∧ zeroOperand.kind ≤ 0xA := by decide
  have hnorma : (norm r x).a.sc.mag < 128 ∧ (norm r x).a.kind ≤ 0xA := by
    rw [norm_a]
    split_ifs with hs
    · exact hzero
    · exact validate_canonical (ha hs)
  have hnormb : (norm r x).b.sc.mag < 128 ∧ (norm r x).b.kind ≤ 0xA := by
    rw [norm_b]
    split_ifs with hs
    · exact hzero
    · exact validate_canonical (hb (not_not.mp hs))
  obtain ⟨hamag, hakind⟩ := hnorma
  obtain ⟨hbmag, hbkind⟩ := hnormb
  constructor
  case op_admitted => exact hop
  case a_unused => rw [norm_a]; exact fun hs => if_pos hs
  case b_unused => rw [norm_b]; exact fun hs => if_pos hs
  case w_unused => rw [norm_w]; exact fun hs => if_pos hs
  case mags => exact ⟨hamag, hbmag⟩
  case kinds => exact ⟨hakind, hbkind⟩

theorem encRec_of_wfRecord (h : wfRecord r x = true) :
    ∃ evts, encRec r x = some (x.op :: bodyBytes (recordBody r (norm r x)), evts) := by
  obtain ⟨ha, hb⟩ := kinds_of_wfRecord h
  unfold encRec recordBody norm
  cases hs : r.shape x.op with
  | z | w => exact ⟨_, rfl⟩
  | o => simp [ope_eq_bytes (ha (by simp [hs])), Shape.bodyWith, bodyBytes]
  | t => simp [ope_eq_bytes (ha (by simp [hs])), ope_eq_bytes (hb hs), Shape.bodyWith, bodyBytes]

end

/-! ### Decode after encode (42_frame_encoder R191) -/

/-- The bytes of well-formed records parse to the records' normal forms. -/
theorem parseFrames_encodeRecords {r : Rom} {rs : List Record} (h : ∀ x ∈ rs, wfRecord r x = true) :
    ∃ bytes, encodeRecords r rs = some bytes ∧
      ∀ n, bytes.length ≤ n → parseFrames r n bytes = (rs.map (norm r), false) := by
  induction rs with
  | nil => exact ⟨[], rfl, fun n _ => by rw [parseFrames]; rfl⟩
  | cons x rs ih =>
    have hx : wfRecord r x = true := h x List.mem_cons_self
    obtain ⟨later, hlater, hparse⟩ := ih fun y hy => h y (List.mem_cons_of_mem x hy)
    obtain ⟨evts, henc⟩ := encRec_of_wfRecord hx
    have hlen : (bodyBytes (recordBody r (norm r x))).length + 1 = r.len x.op :=
      (bodyBytes_length _).trans (congrArg Shape.len (recordBody_shape r (norm r x)))
    refine ⟨x.op :: (bodyBytes (recordBody r (norm r x)) ++ later), ?_, fun n hn => ?_⟩
    · simp only [encodeRecords, hx, henc, hlater, if_true, List.cons_append]
    · rw [List.length_cons, List.length_append] at hn
      obtain ⟨m, rfl⟩ : ∃ m, n = m + 1 := ⟨n - 1, by omega⟩
      have hrecon : (recon r 0 x.op (bodyBytes (recordBody r (norm r x)))).1 = norm r x :=
        recon_recordBody (norm_canonical hx) 0
      rw [parseFrames_frame r m later 0 hlen, hparse m (by omega), hrecon, List.map_cons]

/-- A stream whose frames parse to the end is decoded to their records. -/
theorem decodeStream_of_parse {r : Rom} {body : List Byte} {rs : List Record}
    (h : parseFrames r (header ++ body).length body = (rs, false)) : decodeStream r (header ++ body) = (.ok, rs) := by
  have htag : tag <+: header ++ body := by
    rw [header, List.append_assoc]
    exact List.prefix_append tag _
  have hdrop : (header ++ body).drop 4 = body := rfl
  rw [decodeStream_of_tagged r htag, completeRecords, hdrop, h]
  rfl

/-- Settles O59. -/
theorem decodeOfEncodedScript : Obligations.DecodeOfEncodedScript := by
  intro r rs h
  obtain ⟨bytes, hbytes, hparse⟩ := parseFrames_encodeRecords h
  have hscript : encodeScript r rs = (.ok, header ++ bytes) := by rw [encodeScript, hbytes]
  rw [hscript]
  exact ⟨rfl, decodeStream_of_parse (hparse _ (by simp))⟩

/-! ### The frame of a reconstructed record (41_frame_decoder R160) -/

theorem svd_append {sc : Scalar} (h : sc.mag ≤ 127) : svd (srcBit sc.src ++ sc.mag.extractLsb' 0 7) = sc := by
  obtain ⟨-, hround⟩ := scalarRoundTrips
  exact Option.some.inj ((congrArg (Option.map svd) (sve_eq_append h)).symm.trans (hround sc.src sc.mag h))

theorem operandInRange_iff (k s : Byte) :
    operandInRange k s = true ↔ k ≤ 0x0A ∧ (svd s).mag ≤ ceil (k.setWidth 4) := by
  rw [operandInRange, Bool.and_eq_true, decide_eq_true_eq, decide_eq_true_eq]

/-- An operand read from two bytes is encoded as these bytes exactly where they are in range, and is not clamped
there. -/
theorem ope_opd (k s : Byte) :
    ∃ bs clamped, ope (opd k s).1 = some (bs, clamped) ∧ (bs = [k, s] ↔ operandInRange k s = true) ∧
      (operandInRange k s = true → clamped = false) := by
  obtain ⟨hexact, hclamped, hunknown⟩ := operandRoundTrip k s
  rw [operandInRange_iff]
  by_cases hk : k ≤ 0x0A
  · by_cases hle : (svd s).mag ≤ ceil (k.setWidth 4)
    · exact ⟨_, _, hexact hk hle, iff_of_true rfl ⟨hk, hle⟩, fun _ => rfl⟩
    · refine ⟨_, _, hclamped hk (BitVec.not_le.mp hle), iff_of_false (fun hbs => hle ?_) fun h => hle h.2,
        fun h => absurd h.2 hle⟩
      -- the clamped byte decodes to the ceiling, so it would be `s` only within the ceiling
      have hs : srcBit (svd s).src ++ (ceil (k.setWidth 4)).extractLsb' 0 7 = s :=
        (List.cons.inj (List.cons.inj hbs).2).1
      have hsvd := svd_append (sc := ⟨(svd s).src, ceil (k.setWidth 4)⟩) (ceil_le_127 (kind_le_of_known hk))
      rw [hs] at hsvd
      rw [hsvd]
      exact BitVec.le_refl _
  · refine ⟨_, _, hunknown (BitVec.not_le.mp hk), iff_of_false (fun hbs => hk ?_) fun h => hk h.1,
      fun h => absurd h.1 hk⟩
    rw [← (List.cons.inj hbs).1]
    decide

theorem varOp_eq_self_iff (op : Byte) : varOp op = op ↔ opAdmitted op = true :=
  ⟨fun h => h ▸ opAdmitted_varOp op, varOp_of_admitted⟩

/-- The payloads of a frame, by shape (30_encoding R72). -/
inductive PayloadOf : Shape → List Byte → Prop
  | z : PayloadOf .z []
  | o (p0 p1 : Byte) : PayloadOf .o [p0, p1]
  | w (p0 p1 : Byte) : PayloadOf .w [p0, p1]
  | t (p0 p1 p2 p3 : Byte) : PayloadOf .t [p0, p1, p2, p3]

theorem payloadOf_of_length {sh : Shape} {pay : List Byte} (h : pay.length + 1 = sh.len) : PayloadOf sh pay := by
  cases sh with
  | z =>
    obtain rfl := List.length_eq_zero_iff.mp (Nat.succ.inj h)
    exact .z
  | o =>
    obtain ⟨p0, p1, rfl⟩ := List.length_eq_two.mp (Nat.succ.inj h)
    exact .o p0 p1
  | w =>
    obtain ⟨p0, p1, rfl⟩ := List.length_eq_two.mp (Nat.succ.inj h)
    exact .w p0 p1
  | t =>
    obtain ⟨p0, p1, p2, p3, rfl⟩ := List.length_eq_four.mp (Nat.succ.inj h)
    exact .t p0 p1 p2 p3

/-- The operands of a frame's payload are in range (R160). -/
def payloadInRange (sh : Shape) (pay : List Byte) : Bool :=
  match sh with
  | .z => true
  | .o => operandInRange (pay.getD 0 0) (pay.getD 1 0)
  | .w => true
  | .t => operandInRange (pay.getD 0 0) (pay.getD 1 0) && operandInRange (pay.getD 2 0) (pay.getD 3 0)

section
variable (r : Rom) {op : Byte} {pay : List Byte} (hlen : pay.length + 1 = r.len op)
include hlen

/-- The conditions of R160 on a stream are those on its first frame and on the rest. -/
theorem framesInRange_frame (n : Nat) (rest : List Byte) :
    framesInRange r (n + 1) (op :: (pay ++ rest)) = true ↔
      (opAdmitted op = true ∧ payloadInRange (r.shape op) pay = true) ∧ framesInRange r n rest = true := by
  have hdrop : (pay ++ rest).drop (r.len op - 1) = rest := by rw [← hlen]; exact List.drop_left
  have hpay := payloadOf_of_length hlen
  rw [framesInRange, hdrop, Bool.and_eq_true, Bool.and_eq_true]
  generalize r.shape op = sh at hpay
  cases hpay <;> rfl

/-- The record of a frame is encoded as the frame exactly where the frame is in range, and is not clamped there. -/
theorem encRec_recon (fb : Count) :
    ∃ bs evts, encRec r (recon r fb op pay).1 = some (bs, evts) ∧
      (bs = op :: pay ↔ opAdmitted op = true ∧ payloadInRange (r.shape op) pay = true) ∧
      (payloadInRange (r.shape op) pay = true → evts.count true = 0) := by
  have hpay := payloadOf_of_length hlen
  have hop := varOp_eq_self_iff op
  unfold encRec
  rw [recon_op, shape_varOp, recon_a, recon_b, recon_w]
  generalize r.shape op = sh at hpay ⊢
  cases hpay with
  | z => exact ⟨_, _, rfl, by simp [hop, payloadInRange], fun _ => rfl⟩
  | o p0 p1 =>
    obtain ⟨bs, c, hbs, hiff, hc⟩ := ope_opd p0 p1
    refine ⟨varOp op :: bs, [c], by simp [hbs], by simp [hop, hiff, payloadInRange], fun hin => ?_⟩
    rw [hc hin]
    rfl
  | w p0 p1 => exact ⟨_, _, rfl, by simp [hop, payloadInRange, wideEnc_wideDec], fun _ => rfl⟩
  | t p0 p1 p2 p3 =>
    obtain ⟨as, c, has, haiff, hc⟩ := ope_opd p0 p1
    obtain ⟨bs, d, hbs, hbiff, hd⟩ := ope_opd p2 p3
    have hsplit : as ++ bs = [p0, p1, p2, p3] ↔ as = [p0, p1] ∧ bs = [p2, p3] :=
      ⟨fun h => List.append_inj h (ope_length has), fun ⟨ha, hb⟩ => by rw [ha, hb]; rfl⟩
    refine ⟨varOp op :: (as ++ bs), [c, d], by simp [has, hbs], ?_, fun hin => ?_⟩
    · rw [List.cons.injEq, hop, hsplit, haiff, hbiff, payloadInRange, Bool.and_eq_true]
      rfl
    · obtain ⟨ha, hb⟩ := (Bool.and_eq_true _ _).mp hin
      rw [hc ha, hd hb]
      rfl

end

/-! ### Encode after decode (41_frame_decoder R160, 42_frame_encoder R190) -/

/-- What encoding the records of `bytes` owes the stream: the same bytes exactly where it is in range, and nothing
clamped there. -/
structure EncodesBack (r : Rom) (inRange : Prop) (rs : List Record) (bytes : List Byte) : Prop where
  encoded : ∃ out, encodeRecords r rs = some out ∧ (out = bytes ↔ inRange)
  unclamped : inRange → (rs.map (clampsOf r)).sum = 0

/-- One frame before the others. -/
theorem EncodesBack.frame {r : Rom} {inRange : Prop} {rs : List Record} {rest : List Byte}
    (h : EncodesBack r inRange rs rest) {op : Byte} {pay : List Byte} (hlen : pay.length + 1 = r.len op) (fb : Count) :
    EncodesBack r ((opAdmitted op = true ∧ payloadInRange (r.shape op) pay = true) ∧ inRange)
      ((recon r fb op pay).1 :: rs) (op :: (pay ++ rest)) := by
  obtain ⟨out, hout, hiff⟩ := h.encoded
  obtain ⟨bs, evts, henc, hframe, hclamps⟩ := encRec_recon r hlen fb
  have hwf : wfRecord r (recon r fb op pay).1 = true := (recon_canonical r fb op pay).wfRecord
  have hbs : bs.length = (op :: pay).length := by
    obtain ⟨hbslen, -⟩ := encRec_counts henc
    rw [hbslen, recon_op, Rom.len, shape_varOp, List.length_cons, hlen]
    rfl
  constructor
  case encoded =>
    refine ⟨bs ++ out, by simp only [encodeRecords, hwf, henc, hout, if_true], ?_⟩
    rw [← List.cons_append, ← hframe, ← hiff]
    exact ⟨fun happ => List.append_inj happ hbs, fun ⟨hb, ho⟩ => by rw [hb, ho]⟩
  case unclamped =>
    rintro ⟨⟨-, hpay⟩, hrest⟩
    rw [List.map_cons, List.sum_cons, h.unclamped hrest, clampsOf, henc]
    exact hclamps hpay

/-- The records of a stream of whole frames, by induction on the frames. -/
theorem encodesBack_parseFrames (r : Rom) {n : Nat} {bytes : List Byte} (h : (parseFrames r n bytes).2 = false) :
    EncodesBack r (framesInRange r n bytes = true) (parseFrames r n bytes).1 bytes := by
  induction n generalizing bytes with
  | zero =>
    cases bytes with
    | nil => exact { encoded := ⟨[], rfl, by simp [framesInRange]⟩, unclamped := fun _ => rfl }
    | cons op rest => cases h
  | succ n ih =>
    cases bytes with
    | nil => exact { encoded := ⟨[], rfl, by simp [framesInRange]⟩, unclamped := fun _ => rfl }
    | cons op rest =>
      by_cases hshort : rest.length + 1 < r.len op
      · rw [parseFrames_short r _ hshort] at h
        cases h
      · obtain ⟨pay, later, rfl, hlen⟩ : ∃ pay later, rest = pay ++ later ∧ pay.length + 1 = r.len op := by
          have hpos := len_cases r op
          exact ⟨_, _, (List.take_append_drop (r.len op - 1) rest).symm, by rw [List.length_take]; omega⟩
        rw [parseFrames_frame r n later 0 hlen] at h ⊢
        simp only [framesInRange_frame r hlen]
        exact (ih h).frame hlen 0

/-- Settles O58: a stream that decodes is the tag, whatever version byte, and whole frames; its records are all well
formed, and their encoding begins with the header. -/
theorem roundTripExactlyOnValidStreams : Obligations.RoundTripExactlyOnValidStreams := by
  intro r bytes hok
  have hparse : (parseFrames r bytes.length (bytes.drop 4)).2 = false ∧
      (decodeStream r bytes).2 = (parseFrames r bytes.length (bytes.drop 4)).1 := by
    unfold decodeStream at hok ⊢
    split_ifs at hok ⊢ with htag htrunc
    exact ⟨Bool.eq_false_iff.mpr htrunc, rfl⟩
  obtain ⟨hwhole, hrecords⟩ := hparse
  obtain ⟨⟨out, hout, hiff⟩, hunclamped⟩ := encodesBack_parseFrames r hwhole
  rw [← hrecords] at hout hunclamped
  have hvalid : validStream r bytes = true ↔
      bytes.take 4 = header ∧ framesInRange r bytes.length (bytes.drop 4) = true := by
    have hlen : bytes.take 4 = header → 4 ≤ bytes.length := fun h => by
      have := congrArg List.length h
      rw [List.length_take] at this
      exact min_eq_left_iff.mp this
    simp only [validStream, hok, Bool.and_eq_true, decide_eq_true_eq, beq_iff_eq]
    tauto
  refine ⟨?_, fun h => hunclamped (hvalid.mp h).2⟩
  have hscript : encodeScript r (decodeStream r bytes).2 = (.ok, header ++ out) := by rw [encodeScript, hout]
  rw [hvalid, ← hiff, hscript]
  constructor
  · rintro ⟨hheader, hbody⟩
    rw [← hheader, hbody, List.take_append_drop]
  · intro h
    obtain rfl : header ++ out = bytes := (Prod.mk.inj h).2
    exact ⟨rfl, rfl⟩

end Sys2Proof.Machine

/-! The remaining events and frames of the DU (41_frame_decoder R146 to R152, R158; 43_nsl_instructions R210 to R220) and
the exits from the error states (60_exceptions R258). -/

namespace Sys2Proof.Machine

/-! ### Zero-operand frames (43_nsl_instructions R210) -/

theorem skel_of_unknown {op : Byte} (h : opKnown op = false) :
    skel op = { op := 0x00, a := zeroOperand, b := zeroOperand, w := 0 } := by
  simp [skel, varOp, h]

theorem opcodeDiags_of_unknown {op : Byte} (h : opKnown op = false) (fb : Count) :
    opcodeDiags fb op = unknownOpcodeAt fb op := by
  simp [opcodeDiags, unknownOpcodeAt, h]

section
variable {s : State} {last : Byte} {rest : List HostEvent}

/-- An instruction with a known opcode byte and no operands completes with its skeleton and no diagnostic. -/
theorem exec_completes_zero (h : LastByte s last rest) {i : Instr} (hop : opKnown (i.opcode s.rom) = true)
    (hbody : i.body = .z) :
    ∃ t, exec i s = .next t ∧
      DuCompletes s t last rest { op := i.opcode s.rom, a := zeroOperand, b := zeroOperand, w := 0 } [] := by
  have hdone := exec_completes h i
  rwa [hbody, reconBody, reconDiags, skel_of_known hop, opcodeDiags_of_known hop] at hdone

end

/-- Settles O17. -/
theorem zeroOperandFramesDecode : Obligations.ZeroOperandFramesDecode := by
  intro s last rest h
  refine ⟨exec_completes_zero h (i := .loopEnd) rfl rfl, exec_completes_zero h (i := .endOp) rfl rfl,
    fun raw hraw => ?_, exec_completes_zero h (i := .clearTrack) (opKnown_byte _) rfl⟩
  rw [← skel_of_unknown hraw, ← opcodeDiags_of_unknown hraw]
  exact exec_completes h (.placeholder raw)

/-! ### A completed frame (41_frame_decoder R144, R148, R150, R152) -/

/-- Settles O28: the bytes completed, and the record, are what the step fetches its instruction from. -/
theorem stepRunsTheDecodedInstruction : Obligations.StepRunsTheDecodedInstruction := by
  intro s rest i
  refine ⟨fun last hin hc hdec => step_of_fetch ?_, fun rec hin hrun hinstr => step_of_fetch ?_⟩
  · obtain ⟨op, pay, j, later, hbytes, hj, hfetch⟩ := fetchInstr_of_completes hin hc
    rw [hbytes, hj] at hdec
    cases hdec
    exact hfetch
  · rw [fetchInstr_of_record ⟨hin, hrun⟩, hinstr]

/-- Exactly the bytes of a frame decode to one instruction, with none left over (R141). -/
theorem decode_of_frame (r : Rom) {op : Byte} {pay : List Byte} (hlen : pay.length + 1 = r.len op) :
    ∃ i, decode r (op :: pay) = .ok (i, []) := by
  rw [decode_cons, if_neg (by omega), ← hlen, Nat.add_sub_cancel, List.drop_length]
  exact ⟨_, rfl⟩

/-- Settles O30. -/
theorem decoderEmitsRecon : Obligations.DecoderEmitsRecon := by
  intro s last rest op pay h hbytes
  obtain ⟨op', pay', hbytes', hlen⟩ := frameBytes_of_completes h.completes
  obtain ⟨rfl, rfl⟩ := List.cons.inj (hbytes.symm.trans hbytes')
  obtain ⟨i, hdec⟩ := decode_of_frame s.rom hlen
  have hd := state_of_completes h.completes
  refine ⟨i, _, hdec, step_of_completes h.input h.completes (not_full_of_cursor_lt h.fits) hbytes, ?_, ?_⟩
  · rw [completeFrame, emitRecord_dOut, collectByte_frameBase hd, collectByte_dOut]
  · rw [completeFrame, emitRecord_d, collectByte_reccount hd]

/-! ### Starts and ends (41_frame_decoder R146, R149 to R151) -/

/-- Settles O34. -/
theorem startDecodeEffect : Obligations.StartDecodeEffect := by
  intro s rest hin
  refine ⟨fun hd => ?_, fun hd => ?_⟩
  · have hrest : s.d.state.atRest = true := by rcases hd with hd | hd | hd <;> rw [hd] <;> rfl
    exact ⟨_, step_of_start hin hrest, by rw [startDecoder_input, consume_input, hin, List.tail_cons], rfl,
      ⟨rfl, rfl, rfl, rfl⟩, fun _ => rfl, rfl⟩
  · rw [step_of_no_fetch (by simp [fetchInstr, hin]), handleEvent, hin]
    rcases hd with hd | hd | hd <;> simp only [onStartDecode, hd]

/-- Settles O38, by the DU's state. -/
theorem endOfStreamEffect : Obligations.EndOfStreamEffect := by
  intro s rest hin
  have hstep := step_of_eos hin
  unfold onEos at hstep
  rw [consume_eq hin] at hstep
  refine ⟨?_, fun ⟨hd, hidx⟩ => ?_, fun hd => ?_⟩
  · rintro (hd | ⟨hd, hidx⟩)
    · rw [hstep, hd]
      rfl
    · rw [hstep, hd, hidx]
      rfl
  · rw [hstep, hd]
    exact congrArg Host.Outcome.next (if_neg hidx)
  · rw [hstep, hd]
    rfl

/-! ### Progress (41_frame_decoder R158) -/

section
variable {s t : State} {rest : List HostEvent}

/-- A byte is either counted by the cursor, or the run has failed, by it or before it. -/
theorem DecoderEffect.byte_progress (h : DecoderEffect s t) (hdu : DuConsistent s.rom s.d) {b : Byte}
    (hin : s.input = .byte b :: rest) : t.d.cursor.toNat = s.d.cursor.toNat + 1 ∨ t.d.state = .err := by
  have hsucc (hfull : streamFull s = false) : (s.d.cursor + 1).toNat = s.d.cursor.toNat + 1 :=
    count_toNat_succ (cursor_lt_of_not_full hfull)
  cases h with
  | tagByte _ _ hfull => exact .inl (hsucc hfull)
  | tagMismatch => exact .inr rfl
  | versionByte _ hd _ hidx =>
    have hcur : s.d.cursor.toNat = 3 := by rw [hdu.hdr_cursor hd, hidx]; rfl
    exact .inl (by rw [hcur]; rfl)
  | collect _ hd hfull => exact .inl (by rw [collectByte_cursor hd, hsucc hfull])
  | complete _ hd hfull =>
    exact .inl ((congrArg BitVec.toNat (collectByte_cursor hd _)).trans (hsucc hfull))
  | drainByte _ hd => exact .inr hd
  | start hin' | drainEos hin' | finish hin' | shortHeader hin' | shortFrame hin' => cases hin.symm.trans hin'

theorem DecoderEffect.eos_final (h : DecoderEffect s t) (hin : s.input = .eos :: rest) :
    t.d.state = .done ∨ t.d.state = .err := by
  cases h with
  | drainEos _ hd => exact .inr hd
  | finish => exact .inl rfl
  | shortHeader | shortFrame => exact .inr rfl
  | start hin' | tagByte hin' | tagMismatch hin' | versionByte hin' | collect hin' | complete hin' | drainByte hin' =>
    cases hin.symm.trans hin'

end

/-- Settles O53. -/
theorem everyDecodeMakesProgress : Obligations.EveryDecodeMakesProgress :=
  fun _ _ _ hdu hstep =>
    ⟨fun _ hin => (decoderEffect_of_step hin rfl hstep).byte_progress hdu hin,
      fun hin => (decoderEffect_of_step hin rfl hstep).eos_final hin⟩

/-! ### Leaving an error state (60_exceptions R258) -/

section
variable {s t : State}

/-- In `D_ERR` the DU only starts anew or keeps every field. -/
theorem DecoderEffect.of_err (h : DecoderEffect s t) (hd : s.d.state = .err) :
    (∃ rest, s.input = .startDecode :: rest) ∨ t.d = s.d := by
  cases h with
  | start hin => exact .inl ⟨_, hin⟩
  | drainByte | drainEos => exact .inr rfl
  | tagByte _ hd' | tagMismatch _ hd' | versionByte _ hd' | shortHeader _ hd' | shortFrame _ hd' =>
    cases hd.symm.trans hd'
  | collect _ hd' | complete _ hd' => rcases hd' with hd' | hd' <;> cases hd.symm.trans hd'
  | finish _ hd' => rcases hd' with ⟨hd', -⟩ | hd' <;> cases hd.symm.trans hd'

/-- In `E_ERR` the EU only starts anew or keeps every field. -/
theorem EncoderEffect.of_err (h : EncoderEffect s t) (he : s.e.state = .err) :
    (∃ rest, s.input = .startEncode :: rest) ∨ t.e = s.e := by
  cases h with
  | start hin => exact .inl ⟨_, hin⟩
  | drain => exact .inr rfl
  | send _ he' | reject _ he' | finish _ he' => cases he.symm.trans he'

end

/-- Settles O51, unit by unit. -/
theorem onlyStartOrResetLeavesErrorState : Obligations.OnlyStartOrResetLeavesErrorState := by
  intro s t hstep
  cases step_effect hstep with
  | wait => exact ⟨fun hd => .inl ⟨hd, rfl⟩, fun he => .inl ⟨he, rfl⟩⟩
  | reset hin => exact ⟨fun _ => .inr ⟨_, .inr hin⟩, fun _ => .inr ⟨_, .inr hin⟩⟩
  | decoder heff =>
    obtain ⟨-, hkept, -, -⟩ := heff.sameEncoderSide
    refine ⟨fun hd => ?_, fun he => .inl ⟨by rw [hkept, he], by rw [hkept]⟩⟩
    rcases heff.of_err hd with ⟨rest, hin⟩ | hsame
    · exact .inr ⟨rest, .inl hin⟩
    · exact .inl ⟨by rw [hsame, hd], by rw [hsame]⟩
  | encoder heff =>
    obtain ⟨-, hkept, -, -⟩ := heff.sameDecoderSide
    refine ⟨fun hd => .inl ⟨by rw [hkept, hd], by rw [hkept]⟩, fun he => ?_⟩
    rcases heff.of_err he with ⟨rest, hin⟩ | hsame
    · exact .inr ⟨rest, .inl hin⟩
    · exact .inl ⟨by rw [hsame, he], by rw [hsame]⟩

end Sys2Proof.Machine

/-! The remaining events and records of the EU (42_frame_encoder R181 to R186; 43_nsl_instructions R210 to R213): starts
and ends of scripts, zero-operand records, and the records that raise `ERR_RECORD` (60_exceptions R253). -/

namespace Sys2Proof.Machine

/-! ### Starts and ends (42_frame_encoder R181, R183) -/

theorem step_of_startEncode {s : State} {rest : List HostEvent} (hin : s.input = .startEncode :: rest) :
    step s = onStartEncode s := by
  rw [step_of_no_fetch (by simp [fetchInstr, hin]), handleEvent, hin]

theorem step_of_endScript {s : State} {rest : List HostEvent} (hin : s.input = .endScript :: rest) :
    step s = onEndScript s := by
  rw [step_of_no_fetch (by simp [fetchInstr, hin]), handleEvent, hin]

/-- After the start the output stream is the header alone (20_memory R50, R52). -/
theorem outByte_startEncoder (s : State) (a : Nat) : (startEncoder s).outByte a = header[a]? := by
  rw [State.outByte, startEncoder_sOut, read_writes]
  split_ifs with ha
  · rfl
  · rw [List.getElem?_eq_none (by omega)]
    rfl

/-- Settles O39. -/
theorem startEncodeEffect : Obligations.StartEncodeEffect := by
  intro s rest hin
  have hstep := step_of_startEncode hin
  refine ⟨fun he => ⟨startEncoder (consume s), ?_, ?_, ⟨rfl, rfl, rfl, rfl⟩, rfl, outByte_startEncoder _, rfl⟩,
    fun he => ?_⟩
  · rw [hstep, onStartEncode]
    rcases he with he | he | he <;> rw [he]
  · rw [startEncoder_input, consume_input, hin, List.tail_cons]
  · rw [hstep, onStartEncode, he]

/-- Settles O40. -/
theorem endScriptEffect : Obligations.EndScriptEffect := by
  intro s rest hin he
  rw [step_of_endScript hin, onEndScript, he, consume_eq hin]
  rfl

/-! ### Records sent and rejected (42_frame_encoder R182, R184, R186) -/

section
variable {s : State} {rec : Record} {rest : List HostEvent}

/-- An instruction with no operands sends its canonical opcode alone. -/
theorem exec_sends_zero (h : RecordArrives s rec rest) {i : Instr} (hbody : i.body = .z)
    (hfits : s.e.bytecount.toNat + 1 ≤ maxStreamLen) :
    ∃ t, exec i s = .next t ∧ EuSends s t rest [varOp (i.opcode s.rom)] [] := by
  have hsent := exec_sends h (i := i) (bs := [varOp (i.opcode s.rom)]) (by rw [hbody]; rfl) (by rw [hbody]; rfl) hfits
  rwa [hbody] at hsent

theorem raiseE_rejects (h : RecordArrives s rec rest) : EuRejects s (raiseE .errRecord (consume s)) rest :=
  { input := by rw [raiseE_input, consume_input, h.input, List.tail_cons]
    out := rfl
    state := rfl
    err := rfl
    counts := ⟨rfl, rfl, rfl, rfl⟩
    rom_kept := rfl
    decoder_kept := ⟨rfl, rfl⟩
    input_kept := fun _ => rfl
    output_kept := fun _ => rfl }

/-- An instruction with an unknown kind raises `ERR_RECORD`. -/
theorem exec_rejects (h : RecordArrives s rec rest) {i : Instr} (hk : ¬ kindsKnown i.body = true) :
    ∃ t, exec i s = .next t ∧ EuRejects s t rest := by
  refine ⟨_, ?_, raiseE_rejects h⟩
  rw [exec_eq_runFrame, runFrame_record _ _ _ _ _ h.input h.running, encodeFrame, if_neg hk]

/-- A record whose opcode is no variant's raises `ERR_RECORD`: it stands for no instruction. -/
theorem step_of_not_admitted (h : RecordArrives s rec rest) (hop : ¬ opAdmitted rec.op = true) :
    step s = .next (raiseE .errRecord (consume s)) := by
  have hnone : fetchInstr s = none := (fetchInstr_of_record h).trans (if_neg hop)
  rw [step_of_no_fetch hnone, handleEvent, h.input]
  dsimp only
  rw [onRecord, h.running]

end

/-- Settles O22. -/
theorem zeroOperandRecordsEncode : Obligations.ZeroOperandRecordsEncode := by
  intro s rec rest h hfits
  refine ⟨exec_sends_zero h (i := .loopEnd) rfl hfits, exec_sends_zero h (i := .endOp) rfl hfits,
    fun raw hraw => ?_, ?_⟩
  · have hvar : varOp raw = 0x00 := by simp [varOp, hraw]
    rw [← hvar]
    exact exec_sends_zero h (i := .placeholder raw) rfl hfits
  · have hvar : varOp s.rom.opcClear.byte = s.rom.opcClear.byte := varOp_of_known (opKnown_byte _)
    rw [← hvar]
    exact exec_sends_zero h (i := .clearTrack) rfl hfits

/-- Settles O27. -/
theorem unknownKindRaisesErrRecord : Obligations.UnknownKindRaisesErrRecord := by
  intro s rec rest a b u h
  refine ⟨fun ha => exec_rejects h (i := .loopSet a) ?_, fun hab => ?_⟩
  · simpa [Instr.body, kindsKnown] using ha
  · have htwo : ¬ kindsKnown (.t a b) = true := by
      rw [kindsKnown_two, not_and_or, BitVec.not_le, BitVec.not_le]
      exact hab
    refine ⟨exec_rejects h (i := .set a b) htwo, exec_rejects h (i := Instr.ofOpen u (.two a b)) ?_⟩
    rw [body_ofOpen]
    exact htwo

/-- Settles O32: the opcode is no variant's and no instruction is fetched, or the instruction fetched has an unknown
kind. -/
theorem illFormedRecordRaisesErrRecord : Obligations.IllFormedRecordRaisesErrRecord := by
  intro s rec rest h hwf
  by_cases hop : opAdmitted rec.op = true
  · have hkinds : ¬ kindsKnown (recordBody s.rom rec) = true := fun hk => by
      rw [wfRecord_iff.mpr ⟨hop, hk⟩] at hwf
      cases hwf
    obtain ⟨i, hinstr, -, hbody⟩ := instrOfRecord_of_admitted (r := s.rom) hop
    rw [← hbody] at hkinds
    rw [step_of_fetch ((fetchInstr_of_record h).trans hinstr)]
    exact exec_rejects h hkinds
  · exact ⟨_, step_of_not_admitted h hop, raiseE_rejects h⟩

end Sys2Proof.Machine

/-! A whole encode (42_frame_encoder R188, R189). `Scripting` is the host's side: the output so far, and the records
still to come before the one `EndScript`. What the rest of a run does is an induction on those records: each is sent
until one is ill-formed, and from then on the events are drained in `E_ERR`. -/

namespace Sys2Proof.Machine

/-! ### Bytes and statuses among the EU's events -/

theorem bytesOf_diags_append (gs : List Diag) (events : List EuOut) :
    bytesOf (gs.map .diag ++ events) = bytesOf events := by
  induction gs with
  | nil => rfl
  | cons g gs ih => exact ih

theorem bytesOf_bytes_append (bs : List Byte) (events : List EuOut) :
    bytesOf (bs.map .byte ++ events) = bs ++ bytesOf events := by
  induction bs with
  | nil => rfl
  | cons b bs ih => exact congrArg (b :: ·) ih

theorem euStatusesOf_diags_append (gs : List Diag) (events : List EuOut) :
    euStatusesOf (gs.map .diag ++ events) = euStatusesOf events := by
  induction gs with
  | nil => rfl
  | cons g gs ih => exact ih

theorem euStatusesOf_bytes_append (bs : List Byte) (events : List EuOut) :
    euStatusesOf (bs.map .byte ++ events) = euStatusesOf events := by
  induction bs with
  | nil => rfl
  | cons b bs ih => exact ih

/-! ### `ENCODE` record by record (42_frame_encoder R188) -/

section
variable {r : Rom} {x : Record} {bs : List Byte} {evts : List Bool}

theorem encodeRecords_cons (hwf : wfRecord r x = true) (henc : encRec r x = some (bs, evts)) (rs : List Record) :
    encodeRecords r (x :: rs) = (encodeRecords r rs).map (bs ++ ·) := by
  simp only [encodeRecords, hwf, henc, if_true]
  cases encodeRecords r rs <;> rfl

theorem encodeScript_status_cons (hwf : wfRecord r x = true) (rs : List Record) :
    (encodeScript r (x :: rs)).1 = (encodeScript r rs).1 := by
  obtain ⟨evts, henc⟩ := encRec_of_wfRecord hwf
  rw [encodeScript, encodeScript, encodeRecords_cons hwf henc]
  cases encodeRecords r rs <;> rfl

theorem encodeScript_of_ill_formed (hwf : ¬ wfRecord r x = true) (rs : List Record) :
    encodeScript r (x :: rs) = (.errRecord, []) := by
  rw [encodeScript, encodeRecords, if_neg hwf]

theorem wellFormedPrefix_cons (hwf : wfRecord r x = true) (rs : List Record) :
    wellFormedPrefix r (x :: rs) = x :: wellFormedPrefix r rs := List.takeWhile_cons_of_pos hwf

theorem wellFormedPrefix_of_ill_formed (hwf : ¬ wfRecord r x = true) (rs : List Record) :
    wellFormedPrefix r (x :: rs) = [] := List.takeWhile_cons_of_neg hwf

theorem clampsOf_eq (henc : encRec r x = some (bs, evts)) : clampsOf r x = evts.count true := by
  rw [clampsOf, henc]

/-- A frame is longer than two bytes for each of its clamp events (R180). -/
theorem encRec_clamps_lt_length (hwf : wfRecord r x = true) (henc : encRec r x = some (bs, evts)) :
    2 * evts.count true < bs.length := by
  obtain ⟨hop, -⟩ := wfRecord_iff.mp hwf
  obtain ⟨-, hclamps⟩ := encRec_counts henc
  rw [← hclamps]
  exact bodyClamps_lt_length ((encBody_recordBody hop).trans (congrArg (Option.map Prod.fst) henc))

end

/-- The records before the first ill-formed one always encode. -/
theorem encodeRecords_wellFormedPrefix (r : Rom) (rs : List Record) :
    ∃ sent, encodeRecords r (wellFormedPrefix r rs) = some sent := by
  obtain ⟨sent, hsent, -⟩ := parseFrames_encodeRecords fun _ hx => List.mem_takeWhile_imp hx
  exact ⟨sent, hsent⟩

/-- A script that encodes has no ill-formed record. -/
theorem wellFormedPrefix_of_encoded {r : Rom} {rs : List Record} {bytes : List Byte}
    (h : encodeRecords r rs = some bytes) : wellFormedPrefix r rs = rs := by
  induction rs generalizing bytes with
  | nil => rfl
  | cons x rs ih =>
    by_cases hwf : wfRecord r x = true
    · obtain ⟨evts, henc⟩ := encRec_of_wfRecord hwf
      rw [encodeRecords_cons hwf henc] at h
      obtain ⟨later, hlater, -⟩ := Option.map_eq_some_iff.mp h
      rw [wellFormedPrefix_cons hwf, ih hlater]
    · rw [encodeRecords, if_neg hwf] at h
      cases h

/-! ### Runs of the EU -/

/-- `n` steps from `s` consume every event and end in `t`; the EU emits `events`, its output is then `out`, and the DU's
side is untouched. -/
structure EncodesTo (n : Nat) (s : State) (out : List Byte) (t : State) (events : List EuOut) : Prop where
  run : Sys2Proof.core.run n s = .next t
  input : t.input = []
  emitted : t.eOut = s.eOut ++ events
  decoder : SameDecoderSide s t
  stored : ∀ a, t.outByte a = out[a]?
  count : t.e.bytecount.toNat = out.length

/-- A run with one step before it. -/
theorem EncodesTo.cons {n : Nat} {s u t : State} {out : List Byte} {evs events : List EuOut}
    (h : EncodesTo n u out t events) (hstep : step s = .next u) (hout : u.eOut = s.eOut ++ evs)
    (hsame : SameDecoderSide s u) : EncodesTo (n + 1) s out t (evs ++ events) := by
  obtain ⟨hrom, hd, hsIn, hdOut⟩ := hsame
  obtain ⟨hrom', hd', hsIn', hdOut'⟩ := h.decoder
  exact
    { run := (run_succ Sys2Proof.core hstep n).trans h.run
      input := h.input
      emitted := by rw [h.emitted, hout, List.append_assoc]
      decoder := ⟨hrom'.trans hrom, hd'.trans hd, hsIn'.trans hsIn, hdOut'.trans hdOut⟩
      stored := h.stored
      count := h.count }

/-- After an error the rest of a script is consumed, and nothing else changes (42_frame_encoder R185). -/
theorem run_script_of_err {s : State} {rs : List Record} (hin : s.input = rs.map .record ++ [.endScript])
    (he : s.e.state = .err) : Sys2Proof.core.run (rs.length + 1) s = .next { s with input := [] } := by
  induction rs generalizing s with
  | nil =>
    obtain ⟨-, -, hdrain⟩ := errorStatesDrain s .endScript [] hin
    exact run_succ Sys2Proof.core (hdrain (.inl rfl) he) 0
  | cons x rs ih =>
    obtain ⟨-, -, hdrain⟩ := errorStatesDrain s (.record x) _ hin
    exact (run_succ Sys2Proof.core (hdrain (.inr ⟨x, rfl⟩) he) _).trans (ih rfl he)

/-! ### The host presents a script (42_frame_encoder R189) -/

/-- In a run of the EU the bytes `out` have been emitted, and the records `rs` and the end of the script are still to
come. No counter has wrapped (70_reset_and_hazards R287). -/
structure Scripting (s : State) (out : List Byte) (rs : List Record) : Prop where
  input : s.input = rs.map .record ++ [.endScript]
  running : s.e.state = .run
  stored : ∀ a, s.outByte a = out[a]?
  count : s.e.bytecount.toNat = out.length
  records_bytes : s.e.reccount.toNat ≤ s.e.bytecount.toNat
  clamps_bytes : 2 * s.e.clampcount.toNat ≤ s.e.bytecount.toNat

theorem count_toNat_add {c : Count} {n : Nat} (h : c.toNat + n ≤ maxStreamLen) :
    (c + BitVec.ofNat 32 n).toNat = c.toNat + n := by
  unfold maxStreamLen at h
  rw [BitVec.toNat_add, BitVec.toNat_ofNat]
  omega

/-- The counters of a frame that fits the output do not wrap. -/
theorem EuSends.counts {s t : State} {rest : List HostEvent} {bs : List Byte} {gs : List Diag}
    (h : EuSends s t rest bs gs) (hfits : s.e.bytecount.toNat + bs.length ≤ maxStreamLen)
    (hgs : 2 * gs.length < bs.length) (hrec : s.e.reccount.toNat ≤ s.e.bytecount.toNat)
    (hclamps : 2 * s.e.clampcount.toNat ≤ s.e.bytecount.toNat) :
    t.e.bytecount.toNat = s.e.bytecount.toNat + bs.length ∧ t.e.reccount.toNat = s.e.reccount.toNat + 1 ∧
      t.e.clampcount.toNat = s.e.clampcount.toNat + gs.length := by
  rw [h.bytecount, h.reccount, h.clampcount]
  exact ⟨count_toNat_add hfits, count_toNat_succ (lt_of_lt_of_le (by omega) hfits),
    count_toNat_add (le_trans (by omega) hfits)⟩

section
variable {s : State} {out : List Byte} {x : Record} {rs : List Record}

theorem Scripting.arrives (h : Scripting s out (x :: rs)) :
    RecordArrives s x (rs.map .record ++ [.endScript]) := ⟨h.input, h.running⟩

/-- A well-formed record whose frame fits the output is sent and counted (42_frame_encoder R182). -/
theorem Scripting.send (h : Scripting s out (x :: rs)) (hwf : wfRecord s.rom x = true) {bs : List Byte}
    {evts : List Bool} (henc : encRec s.rom x = some (bs, evts)) (hfits : out.length + bs.length ≤ maxStreamLen) :
    ∃ (u : State) (gs : List Diag), step s = .next u ∧ u.eOut = s.eOut ++ (bs.map .byte ++ gs.map .diag) ∧
      Scripting u (out ++ bs) rs ∧ u.e.reccount.toNat = s.e.reccount.toNat + 1 ∧
      u.e.clampcount.toNat = s.e.clampcount.toNat + clampsOf s.rom x := by
  obtain ⟨bs', evts', henc', -, hsend⟩ := encoderEmitsEncrec s x _ h.arrives hwf
  obtain ⟨rfl, rfl⟩ := Prod.mk.inj (Option.some.inj (henc'.symm.trans henc))
  rw [← h.count] at hfits
  obtain ⟨u, gs, hstep, hsends, hgs⟩ := hsend hfits
  have hlt : 2 * gs.length < bs'.length := hgs ▸ encRec_clamps_lt_length hwf henc
  obtain ⟨hbytes, hrecs, hclamps⟩ := hsends.counts hfits hlt h.records_bytes h.clamps_bytes
  refine ⟨u, gs, hstep, by rw [hsends.out, List.append_assoc], ?_, hrecs, by rw [hclamps, hgs, clampsOf_eq henc]⟩
  constructor
  case input => exact hsends.input
  case running => exact hsends.state
  case stored =>
    intro a
    rw [hsends.written, h.count, h.stored, List.getElem?_append]
    split_ifs with hin hlt' hlt'
    · omega
    · rfl
    · rfl
    · rw [List.getElem?_eq_none (by omega), List.getElem?_eq_none (by omega)]
  case count => rw [hbytes, h.count, List.length_append]
  case records_bytes => have hle := h.records_bytes; omega
  case clamps_bytes => have hle := h.clamps_bytes; omega

/-- An ill-formed record ends the run; the records after it are drained (42_frame_encoder R182, R185). -/
theorem Scripting.reject (h : Scripting s out (x :: rs)) (hwf : ¬ wfRecord s.rom x = true) :
    ∃ t, EncodesTo ((x :: rs).length + 1) s out t [.finished .errRecord] ∧ t.e.reccount = s.e.reccount ∧
      t.e.clampcount = s.e.clampcount := by
  obtain ⟨u, hstep, hrej⟩ := illFormedRecordRaisesErrRecord s x _ h.arrives (Bool.eq_false_iff.mpr hwf)
  obtain ⟨hbytes, hrecs, -, hclamps⟩ := hrej.counts
  have hdrained : EncodesTo (rs.length + 1) u out { u with input := [] } [] :=
    { run := run_script_of_err hrej.input hrej.state
      input := rfl
      emitted := (List.append_nil _).symm
      decoder := ⟨rfl, rfl, rfl, rfl⟩
      stored := fun a => (hrej.output_kept a).trans (h.stored a)
      count := (congrArg BitVec.toNat hbytes).trans h.count }
  exact ⟨_, hdrained.cons hstep hrej.out (sameDecoderSide_of_encoder_step h.input rfl hstep), hrecs, hclamps⟩

/-- The end of the script ends the run well (42_frame_encoder R183). -/
theorem Scripting.finish (h : Scripting s out []) :
    ∃ t, EncodesTo 1 s out t [.finished .ok] ∧ t.e.reccount = s.e.reccount ∧ t.e.clampcount = s.e.clampcount :=
  ⟨_,
    { run := run_succ Sys2Proof.core (endScriptEffect s [] h.input h.running) 0
      input := rfl
      emitted := rfl
      decoder := ⟨rfl, rfl, rfl, rfl⟩
      stored := h.stored
      count := h.count }, rfl, rfl⟩

end

/-! ### A run agrees with `ENCODE` (42_frame_encoder R189) -/

/-- What a run that emitted `events`, and took the EU from `e` to `e'`, owes the script `rs`: `sent` are the bytes of
the records before the first ill-formed one. -/
structure ScriptAgrees (r : Rom) (rs : List Record) (sent : List Byte) (e e' : EncoderUnit) (events : List EuOut) :
    Prop where
  statuses : euStatusesOf events = [(encodeScript r rs).1]
  bytes : bytesOf events = sent
  records : e'.reccount.toNat = e.reccount.toNat + (wellFormedPrefix r rs).length
  clamps : e'.clampcount.toNat = e.clampcount.toNat + ((wellFormedPrefix r rs).map (clampsOf r)).sum

section
variable {r : Rom} {x : Record} {rs : List Record} {sent : List Byte} {e e' e'' : EncoderUnit} {events : List EuOut}

/-- A well-formed record sent before adds its bytes and its counts, and its diagnostics change nothing. -/
theorem ScriptAgrees.cons (h : ScriptAgrees r rs sent e' e'' events) (hwf : wfRecord r x = true)
    (hrecs : e'.reccount.toNat = e.reccount.toNat + 1)
    (hclamps : e'.clampcount.toNat = e.clampcount.toNat + clampsOf r x) (bs : List Byte) (gs : List Diag) :
    ScriptAgrees r (x :: rs) (bs ++ sent) e e'' ((bs.map .byte ++ gs.map .diag) ++ events) := by
  have hprefix := wellFormedPrefix_cons hwf rs
  constructor
  case statuses =>
    rw [List.append_assoc, euStatusesOf_bytes_append, euStatusesOf_diags_append, h.statuses,
      encodeScript_status_cons hwf]
  case bytes => rw [List.append_assoc, bytesOf_bytes_append, bytesOf_diags_append, h.bytes]
  case records => rw [h.records, hrecs, hprefix, List.length_cons]; omega
  case clamps => rw [h.clamps, hclamps, hprefix, List.map_cons, List.sum_cons]; omega

/-- A run that ends before any record of `rs` is sent: at the end of the script, or at an ill-formed record. -/
theorem ScriptAgrees.of_nothing_sent (hprefix : wellFormedPrefix r rs = []) (hrecs : e'.reccount = e.reccount)
    (hclamps : e'.clampcount = e.clampcount) :
    ScriptAgrees r rs [] e e' [.finished (encodeScript r rs).1] :=
  { statuses := rfl
    bytes := rfl
    records := by rw [hprefix, hrecs]; rfl
    clamps := by rw [hprefix, hclamps]; rfl }

end

/-- The rest of a run in `E_RUN`, with the records `rs` still to come. -/
theorem encodesTo_of_script {s : State} {out sent : List Byte} {rs : List Record} (h : Scripting s out rs)
    (hsent : encodeRecords s.rom (wellFormedPrefix s.rom rs) = some sent)
    (hfits : out.length + sent.length ≤ maxStreamLen) :
    ∃ t events, EncodesTo (rs.length + 1) s (out ++ sent) t events ∧ ScriptAgrees s.rom rs sent s.e t.e events := by
  induction rs generalizing s out sent with
  | nil =>
    obtain rfl : [] = sent := Option.some.inj hsent
    obtain ⟨t, hruns, hrecs, hclamps⟩ := h.finish
    rw [List.append_nil]
    exact ⟨t, _, hruns, .of_nothing_sent rfl hrecs hclamps⟩
  | cons x rs ih =>
    by_cases hwf : wfRecord s.rom x = true
    · obtain ⟨evts, henc⟩ := encRec_of_wfRecord hwf
      rw [wellFormedPrefix_cons hwf, encodeRecords_cons hwf henc] at hsent
      obtain ⟨later, hlater, rfl⟩ := Option.map_eq_some_iff.mp hsent
      rw [List.length_append, ← Nat.add_assoc] at hfits
      obtain ⟨u, gs, hstep, hout, hu, hrecs, hclamps⟩ := h.send hwf henc (le_trans (Nat.le_add_right _ _) hfits)
      have hsame := sameDecoderSide_of_encoder_step h.input rfl hstep
      have hrom : u.rom = s.rom := stepKeepsRom s u hstep
      rw [← hrom] at hlater
      obtain ⟨t, events, hruns, hagree⟩ := ih hu hlater (by rwa [List.length_append])
      rw [hrom] at hagree
      rw [← List.append_assoc]
      exact ⟨t, _, hruns.cons hstep hout hsame, hagree.cons hwf hrecs hclamps _ gs⟩
    · have hprefix := wellFormedPrefix_of_ill_formed hwf rs
      rw [hprefix] at hsent
      obtain rfl : [] = sent := Option.some.inj hsent
      obtain ⟨t, hruns, hrecs, hclamps⟩ := h.reject hwf
      have hagree := ScriptAgrees.of_nothing_sent hprefix hrecs hclamps
      rw [encodeScript_of_ill_formed hwf] at hagree
      rw [List.append_nil]
      exact ⟨t, _, hruns, hagree⟩

/-- A run that emitted the status of a script and the bytes of its well-formed records has its result. -/
theorem encodeResult_of_script {r : Rom} {rs : List Record} {sent : List Byte} {events : List EuOut}
    (hsent : encodeRecords r (wellFormedPrefix r rs) = some sent)
    (hstatus : euStatusesOf events = [(encodeScript r rs).1]) (hbytes : bytesOf events = header ++ sent) :
    encodeResult events = some (encodeScript r rs) := by
  rw [encodeResult, hstatus, hbytes, encodeScript]
  cases hall : encodeRecords r rs with
  | none => rfl
  | some bytes =>
    rw [wellFormedPrefix_of_encoded hall, hall] at hsent
    cases hsent
    rfl

/-- Settles O57: the start emits the header, and the records follow it. -/
theorem encoderRunAgreesWithEncode : Obligations.EncoderRunAgreesWithEncode := by
  intro s rs hrest hfits hin
  obtain ⟨sent, hsent⟩ := encodeRecords_wellFormedPrefix s.rom rs
  have hprefix : encodeScript s.rom (wellFormedPrefix s.rom rs) = (.ok, header ++ sent) := by rw [encodeScript, hsent]
  rw [hprefix] at hfits ⊢
  have hstates : s.e.state = .idle ∨ s.e.state = .done ∨ s.e.state = .err := by
    cases he : s.e.state <;> simp [he, EState.atRest] at hrest ⊢
  obtain ⟨hstart, -⟩ := startEncodeEffect s _ hin
  obtain ⟨u, hstep, huin, hsame, huout, hustored, hu⟩ := hstart hstates
  have hscript : Scripting u header rs :=
    { input := huin
      running := by rw [hu]
      stored := hustored
      count := by rw [hu]; rfl
      records_bytes := by rw [hu]; exact Nat.zero_le _
      clamps_bytes := by rw [hu]; exact Nat.zero_le _ }
  have hrom : u.rom = s.rom := stepKeepsRom s u hstep
  rw [← hrom] at hsent
  obtain ⟨t, events, hruns, hagree⟩ := encodesTo_of_script hscript hsent (by rwa [← List.length_append])
  rw [hrom] at hagree hsent
  have hall := hruns.cons (evs := header.map .byte) hstep huout hsame
  have hbytes : bytesOf (header.map .byte ++ events) = header ++ sent := by rw [bytesOf_bytes_append, hagree.bytes]
  have hstatuses : euStatusesOf (header.map .byte ++ events) = [(encodeScript s.rom rs).1] := by
    rw [euStatusesOf_bytes_append, hagree.statuses]
  refine ⟨t, _, hall.run, hall.input, hall.emitted, hall.decoder, hstatuses,
    encodeResult_of_script hsent hstatuses hbytes, hbytes, ?_, ?_, ?_, ?_⟩
  · rw [hbytes]; exact hall.stored
  · rw [hbytes]; exact hall.count
  · rw [hagree.records, hu]; exact Nat.zero_add _
  · rw [hagree.clamps, hu]; exact Nat.zero_add _

end Sys2Proof.Machine

/-! What the host contract refuses (70_reset_and_hazards R286, R287). An event is refused as not admitted by its own
handling alone: one that completes an instruction is admitted, and no instruction's meaning gives that refusal. The
length limits are read off the three guards a step has: on a taken byte, on a drained byte, and on the bytes of a
record. -/

namespace Sys2Proof.Machine

/-! ### Events not admitted (70_reset_and_hazards R286) -/

/-- A guard on the length of the stream never refuses a byte as an event not admitted. -/
theorem unlessFull_ne_eventNotAdmitted (full : Bool) (t : State) :
    (if full then .refused .streamTooLong else .next t : Host.Outcome State Fault Refusal) ≠
      .refused .eventNotAdmitted := by
  cases full <;> simp

section
variable (s : State)

theorem onStartDecode_eventNotAdmitted_iff :
    onStartDecode s = .refused .eventNotAdmitted ↔ s.d.state.atRest = false := by
  unfold onStartDecode
  cases s.d.state <;> simp [DState.atRest]

theorem onByte_eventNotAdmitted_iff (b : Byte) :
    onByte b s = .refused .eventNotAdmitted ↔ s.d.state = .idle ∨ s.d.state = .done := by
  unfold onByte
  cases s.d.state with
  | idle | done => simp
  | hdr | opc | pay | err => simpa using unlessFull_ne_eventNotAdmitted _ _

theorem onEos_eventNotAdmitted_iff :
    onEos s = .refused .eventNotAdmitted ↔ s.d.state = .idle ∨ s.d.state = .done := by
  unfold onEos
  cases s.d.state <;> simp

theorem onStartEncode_eventNotAdmitted_iff :
    onStartEncode s = .refused .eventNotAdmitted ↔ s.e.state.atRest = false := by
  unfold onStartEncode
  cases s.e.state <;> simp [EState.atRest]

theorem onRecord_eventNotAdmitted_iff :
    onRecord s = .refused .eventNotAdmitted ↔ s.e.state = .idle ∨ s.e.state = .done := by
  unfold onRecord
  cases s.e.state <;> simp

theorem onEndScript_eventNotAdmitted_iff :
    onEndScript s = .refused .eventNotAdmitted ↔ s.e.state = .idle ∨ s.e.state = .done := by
  unfold onEndScript
  cases s.e.state <;> simp

/-- The rule R286 gives for the events of a run in progress, as the two states it excludes. -/
theorem inRun_eq_false_iff {α : Type} [DecidableEq α] (st idle done : α) :
    (st ≠ idle && st ≠ done) = false ↔ st = idle ∨ st = done := by
  simp [or_iff_not_imp_left]

/-- The handling of an event refuses it as not admitted exactly where R286 does. -/
theorem handleEvent_eventNotAdmitted_iff :
    handleEvent s = .refused .eventNotAdmitted ↔ nextAdmitted s = false := by
  unfold handleEvent nextAdmitted
  cases s.input with
  | nil => simp
  | cons ev rest =>
    cases ev with
    | startDecode => exact onStartDecode_eventNotAdmitted_iff s
    | byte b => exact (onByte_eventNotAdmitted_iff s b).trans (inRun_eq_false_iff ..).symm
    | eos => exact (onEos_eventNotAdmitted_iff s).trans (inRun_eq_false_iff ..).symm
    | startEncode => exact onStartEncode_eventNotAdmitted_iff s
    | record rec => exact (onRecord_eventNotAdmitted_iff s).trans (inRun_eq_false_iff ..).symm
    | endScript => exact (onEndScript_eventNotAdmitted_iff s).trans (inRun_eq_false_iff ..).symm
    | reset => simp [eventAdmitted]

theorem decodeLast_ne_eventNotAdmitted (op : Byte) (body : Body) (last : Byte) :
    decodeLast op body last s ≠ .refused .eventNotAdmitted :=
  unlessFull_ne_eventNotAdmitted _ _

theorem encodeFrame_ne_eventNotAdmitted (op : Byte) (body : Body) :
    encodeFrame op body s ≠ .refused .eventNotAdmitted := by
  unfold encodeFrame
  split_ifs
  · cases encBody op body with
    | none => simp
    | some bs => dsimp only; split_ifs <;> simp
  · simp

end

/-- No instruction's meaning refuses the event that completes it as not admitted. -/
theorem exec_ne_eventNotAdmitted {s : State} {i : Instr} (h : fetchInstr s = some i) :
    exec i s ≠ .refused .eventNotAdmitted := by
  rw [exec_eq_runFrame]
  rcases delivered_of_fetchInstr h with ⟨last, rest, hin, hc⟩ | ⟨rec, rest, hin, hrun⟩
  · rw [runFrame_byte _ _ _ _ _ hin hc]
    exact decodeLast_ne_eventNotAdmitted s _ _ last
  · rw [runFrame_record _ _ _ _ _ hin hrun]
    exact encodeFrame_ne_eventNotAdmitted s _ _

/-- An event that completes an instruction is admitted: its unit is in a run. -/
theorem nextAdmitted_of_fetchInstr {s : State} {i : Instr} (h : fetchInstr s = some i) : nextAdmitted s = true := by
  rcases delivered_of_fetchInstr h with ⟨last, rest, hin, hc⟩ | ⟨rec, rest, hin, hrun⟩
  · rcases state_of_completes hc with hd | hd <;> simp [nextAdmitted, hin, eventAdmitted, hd]
  · simp [nextAdmitted, hin, eventAdmitted, hrun]

/-- Settles O43: an event that completes an instruction is admitted and not refused as not admitted; any other is
refused by its own handling. -/
theorem refusesExactlyInadmissibleEvents : Obligations.RefusesExactlyInadmissibleEvents := by
  intro s
  cases h : fetchInstr s with
  | some i =>
    rw [step_of_fetch h, nextAdmitted_of_fetchInstr h]
    exact iff_of_false (exec_ne_eventNotAdmitted h) Bool.noConfusion
  | none =>
    rw [step_of_no_fetch h]
    exact handleEvent_eventNotAdmitted_iff s

/-! ### Streams and outputs past `MAX_STREAM_LEN` (70_reset_and_hazards R287) -/

theorem unlessFull_eq_streamTooLong_iff (full : Bool) (t : State) :
    (if full then .refused .streamTooLong else .next t : Host.Outcome State Fault Refusal) =
      .refused .streamTooLong ↔ full = true := by
  cases full <;> simp

theorem streamFull_iff (s : State) : streamFull s = true ↔ s.d.cursor.toNat = maxStreamLen := decide_eq_true_iff

theorem drainFull_iff (s : State) : drainFull s = true ↔ maxStreamLen ≤ received s := decide_eq_true_iff

theorem outputFits_iff (s : State) (n : Nat) : outputFits s n = true ↔ s.e.bytecount.toNat + n ≤ maxStreamLen :=
  decide_eq_true_iff

section
variable {s : State} {rest : List HostEvent}

/-- A byte of the header or of a frame is taken unless the cursor stands at the limit, whether or not it completes an
instruction (41_frame_decoder R147, R148, R150). -/
theorem step_of_taken_byte {b : Byte} (hin : s.input = .byte b :: rest)
    (hd : s.d.state = .hdr ∨ s.d.state = .opc ∨ s.d.state = .pay) :
    ∃ t, step s = if streamFull s then .refused .streamTooLong else .next t := by
  cases hc : frameCompletes s b with
  | true =>
    obtain ⟨-, -, i, -, -, -, hfetch⟩ := fetchInstr_of_completes hin hc
    rw [step_of_fetch hfetch, exec_eq_runFrame, runFrame_byte _ _ _ _ _ hin hc]
    exact ⟨_, rfl⟩
  | false =>
    rw [step_of_byte hin hc, onByte]
    rcases hd with hd | hd | hd <;> rw [hd] <;> exact ⟨_, rfl⟩

theorem step_of_byte_in_err {b : Byte} (hin : s.input = .byte b :: rest) (hd : s.d.state = .err) :
    step s = if drainFull s then .refused .streamTooLong else .next (drainByte b s) := by
  rw [step_of_byte hin (by simp [frameCompletes, hd]), onByte, hd]

/-- A well-formed record is sent unless its bytes do not fit the output (42_frame_encoder R182). -/
theorem step_of_wfRecord {rec : Record} {p : List Byte × List Bool} (h : RecordArrives s rec rest)
    (hwf : wfRecord s.rom rec = true) (henc : encRec s.rom rec = some p) :
    ∃ t, step s = if outputFits s p.1.length then .next t else .refused .outputTooLong := by
  obtain ⟨hop, hkinds⟩ := wfRecord_iff.mp hwf
  obtain ⟨i, hinstr, hopcode, hbody⟩ := instrOfRecord_of_admitted (r := s.rom) hop
  have hbs : encBody rec.op (recordBody s.rom rec) = some p.1 := by rw [encBody_recordBody hop, henc, Option.map_some]
  rw [step_of_fetch ((fetchInstr_of_record h).trans hinstr), exec_eq_runFrame,
    runFrame_record _ _ _ _ _ h.input h.running, hopcode, hbody, encodeFrame, if_pos hkinds, hbs]
  exact ⟨_, rfl⟩

end

/-- Settles O44, guard by guard. -/
theorem refusesExactlyPastMaxStreamLen : Obligations.RefusesExactlyPastMaxStreamLen := by
  intro s rest
  refine ⟨fun b hin hd => ?_, fun b hin hd => ?_, fun rec p hin hrun hwf henc => ?_⟩
  · obtain ⟨t, hstep⟩ := step_of_taken_byte hin hd
    rw [hstep, unlessFull_eq_streamTooLong_iff, streamFull_iff]
  · rw [step_of_byte_in_err hin hd, unlessFull_eq_streamTooLong_iff, drainFull_iff]
  · obtain ⟨t, hstep⟩ := step_of_wfRecord ⟨hin, hrun⟩ hwf henc
    rw [hstep, ← not_le, ← outputFits_iff]
    split_ifs with hfit <;> simp [hfit]

end Sys2Proof.Machine

/-! The canonical form of the byte spaces (20_memory, section 1; log 5). Unlike the invariant of the units it asks nothing
of the cursor or the counters: a byte space is only ever emptied or written, and a write keeps the offsets rising wherever
it lands. -/

namespace Sys2Proof.Machine

section
variable {s t : State}

/-- A step on an event of the DU keeps the input in canonical form: it takes a byte, drains one, begins a new stream or
leaves the input alone. -/
theorem DecoderEffect.sIn_wf (heff : DecoderEffect s t) (h : Memory.wf s.sIn) : Memory.wf t.sIn := by
  cases heff with
  | start => exact List.Pairwise.nil
  | tagByte | tagMismatch | versionByte | collect | complete => exact write_wf s.sIn s.d.cursor.toNat _ h
  | drainByte => exact write_wf s.sIn (received s) _ h
  | drainEos | finish | shortHeader | shortFrame => exact h

/-- A step on an event of the EU keeps the output in canonical form: it begins a new stream with the header, sends a frame
or leaves the output alone. -/
theorem EncoderEffect.sOut_wf (heff : EncoderEffect s t) (h : Memory.wf s.sOut) : Memory.wf t.sOut := by
  cases heff with
  | start => exact writes_wf header [] 0 List.Pairwise.nil
  | send =>
    rw [sendFrame_sOut]
    exact writes_wf _ s.sOut _ h
  | reject | drain | finish => exact h

end

/-- Settles O50, unit by unit: each unit keeps its own byte space in canonical form and leaves the other's as it is. -/
theorem stepKeepsByteSpacesCanonical : Obligations.StepKeepsByteSpacesCanonical := by
  intro s t hin hout hstep
  cases step_effect hstep with
  | wait => exact ⟨hin, hout⟩
  | decoder heff =>
    obtain ⟨-, -, hsame, -⟩ := heff.sameEncoderSide
    exact ⟨heff.sIn_wf hin, hsame ▸ hout⟩
  | encoder heff =>
    obtain ⟨-, -, hsame, -⟩ := heff.sameDecoderSide
    exact ⟨hsame ▸ hin, heff.sOut_wf hout⟩
  | reset => exact ⟨List.Pairwise.nil, List.Pairwise.nil⟩

end Sys2Proof.Machine
